-- ==== Sys2Proof/Word.lean ====
section
/-! DEFINITION. The bit vectors of the block: what software or the bus sees as a word of a stated width.
Every width is one the spec states (10_state.md §2 to §6, 20_memory.md rule R40). -/

namespace Sys2Proof

/-- A register, a command word or the data of a bus transaction (R33, R60): 32 bits. -/
abbrev Word := BitVec 32

/-- The smallest addressable unit of the bus window (R42). -/
abbrev Byte := BitVec 8

/-- One frame of the buffer RAM, the pattern `u16(s)` of a signed sample `s` (R9, R43): 16 bits. -/
abbrev Sample := BitVec 16

/-- A byte offset in the bus window `[0, 0x10000)` (R40): 16 bits. -/
abbrev Offset := BitVec 16

end Sys2Proof
end

