-- ==== Sys2Proof/Syntax.lean ====
section
/-! DEFINITION. The command words of the block as syntax (30_encoding.md): one constructor per row of the opcode table. -/

namespace Sys2Proof

/-- The six commands (R2, R63). The operands of TRIGGER and SET_VOLUME are registers, not fields of the word (R62). -/
inductive Instr
  /-- NOP (R87). -/
  | nop
  /-- TRIGGER (R88). -/
  | trigger
  /-- SET_VOLUME (R90). -/
  | setVolume
  /-- START (R91). -/
  | start
  /-- SHUTDOWN (R92). -/
  | shutdown
  /-- GENERATE b, N (R93): the buffer index `BUF` and the frame count `COUNT` of format G (R61), as numbers (log 16). -/
  | generate (b n : Nat)
  deriving DecidableEq, Repr

end Sys2Proof
end

