-- ==== Sys2Proof/WellFormed.lean ====
section
/-! DEFINITION. Which terms of `Instr` a command word can stand for: the operands fit their fields (30_encoding.md
rule R62). The range checks against NUM_BUF and BUF_FRAMES are no part of it: they belong to GENERATE's execution (R62). -/

namespace Sys2Proof

/-- The operands fit their fields: `b` in `[0, 3]` and `N` in `[0, 4095]` (R62). -/
abbrev Instr.WellFormed : Instr → Prop
  | .nop => True
  | .trigger => True
  | .setVolume => True
  | .start => True
  | .shutdown => True
  | .generate b n => b < 4 ∧ n < 4096

/-- The same check as a Boolean, for tests and for evaluation. -/
def Instr.wellFormed : Instr → Bool
  | .nop => true
  | .trigger => true
  | .setVolume => true
  | .start => true
  | .shutdown => true
  | .generate b n => decide (b < 4) && decide (n < 4096)

end Sys2Proof
end

