-- ==== Sys2Proof/Decode.lean ====
section
/-! DEFINITION. Decoding and encoding of command words (30_encoding.md). Decoding is total: every 32-bit word is a
command or is rejected with a named reason (R64). The encoder is written from the same opcode map (R61, R63). -/

namespace Sys2Proof

/-- Why a word is no command (R64, R65). -/
inductive Reject
  /-- REJECT(1): the opcode is 0x6 to 0xF. -/
  | reservedOpcode
  /-- REJECT(2): a defined opcode with a reserved bit set. -/
  | reservedBits
  deriving DecidableEq, Repr

/-- What a word decodes to (R64). -/
inductive Decoded
  | command (i : Instr)
  | reject (r : Reject)
  deriving DecidableEq, Repr

/-- `v[hi:lo]` of R9: the field as an unsigned number. -/
def field (w : Word) (hi lo : Nat) : Nat := w.toNat / 2 ^ lo % 2 ^ (hi + 1 - lo)

/-- `OP = w[31:28]` (R61). -/
def opField (w : Word) : Nat := field w 31 28

/-- The reserved bits of format Z, `RSV = w[27:0]` (R61). -/
def rsvZ (w : Word) : Nat := field w 27 0

/-- The reserved bits of format G: RSV1 and RSV2 are both 0 (R61), `w AND 0x0FFCF000 = 0` (R64). -/
def rsvGClear (w : Word) : Bool := field w 27 18 == 0 && field w 15 12 == 0

/-- A format Z word with a defined opcode: the command, unless a reserved bit is set (R64). -/
def decodeZ (i : Instr) (w : Word) : Decoded :=
  if rsvZ w = 0 then .command i else .reject .reservedBits

/-- A format G word: GENERATE with its zero-extended operands (R62), unless a reserved bit is set (R64). -/
def decodeG (w : Word) : Decoded :=
  if rsvGClear w then .command (.generate (field w 17 16) (field w 11 0)) else .reject .reservedBits

/-- Decoding (R64). It reads the word alone: no mode and no variant changes it (R60). -/
def decode (w : Word) : Decoded :=
  match opField w with
  | 0 => decodeZ .nop w
  | 1 => decodeZ .trigger w
  | 2 => decodeZ .setVolume w
  | 3 => decodeZ .start w
  | 4 => decodeZ .shutdown w
  | 5 => decodeG w
  | _ => .reject .reservedOpcode

/-- The opcode of a command (R63). -/
def opcode : Instr → Nat
  | .nop => 0
  | .trigger => 1
  | .setVolume => 2
  | .start => 3
  | .shutdown => 4
  | .generate _ _ => 5

/-- The bits below OP: 0 in format Z, `BUF << 16 | COUNT` in format G (R61, R93). -/
def operandBits : Instr → Nat
  | .nop => 0
  | .trigger => 0
  | .setVolume => 0
  | .start => 0
  | .shutdown => 0
  | .generate b n => b * 2 ^ 16 + n

/-- The word of a command (R61, R63). It is the command's only word (log 12). -/
def encode (i : Instr) : Word := BitVec.ofNat 32 (opcode i * 2 ^ 28 + operandBits i)

/-- The words of the opcode map, `(w AND mask) = match`, as rows (R63). -/
structure OpcodeRow where
  matchBits : Word
  mask : Word
  deriving DecidableEq, Repr

/-- The row of the opcode map that a command belongs to (R63). -/
def opcodeRow : Instr → OpcodeRow
  | .nop => ⟨0x00000000#32, 0xFFFFFFFF#32⟩
  | .trigger => ⟨0x10000000#32, 0xFFFFFFFF#32⟩
  | .setVolume => ⟨0x20000000#32, 0xFFFFFFFF#32⟩
  | .start => ⟨0x30000000#32, 0xFFFFFFFF#32⟩
  | .shutdown => ⟨0x40000000#32, 0xFFFFFFFF#32⟩
  | .generate _ _ => ⟨0x50000000#32, 0xFFFCF000#32⟩

/-- A word selects a command's row (R63). -/
def OpcodeRow.selects (r : OpcodeRow) (w : Word) : Bool := w &&& r.mask == r.matchBits

/-- The word of a table row of `nbits` bits whose value is `w`. Every command is one 32-bit word (R60), so the bits
above `nbits` are 0 and nothing stands beyond bit 31 (log 19). -/
def tableWord (nbits w : Nat) : Word := BitVec.ofNat 32 (w % 2 ^ nbits)

/-- The command the decoder reads from a table row's bits. -/
def decodeTableWord (nbits w : Nat) : Option Instr :=
  match decode (tableWord nbits w) with
  | .command i => some i
  | .reject _ => none

end Sys2Proof
end

