-- ==== Sys2Proof/Config.lean ====
section
/-! DEFINITION. What a build of the block fixes (00_scope.md rule R7, the rows marked configuration), the agents,
and the free values: `draw()` of rule R10 and the order of the agents where nothing gives one. -/

namespace Sys2Proof

/-- The two variants of the block (R3). -/
inductive Variant
  | simple
  | fm
  deriving DecidableEq, Repr

/-- `NUM_BUF`: 2, 3 or 4 buffers (R7). -/
inductive NumBuf
  | two
  | three
  | four
  deriving DecidableEq, Repr

/-- The number of buffers a build has (R7). -/
def NumBuf.toNat : NumBuf → Nat
  | .two => 2
  | .three => 3
  | .four => 4

/-- `BUF_FRAMES`: 1024 or 2048 frames a buffer (R7). -/
inductive BufFrames
  | f1024
  | f2048
  deriving DecidableEq, Repr

/-- The number of frames of one buffer (R7). -/
def BufFrames.toNat : BufFrames → Nat
  | .f1024 => 1024
  | .f2048 => 2048

/-- The build parameters of R7. The host cannot change them (R3, R126): no step writes them. Their types admit
the spec's values only, so there is no ill-formed build. -/
structure Config where
  variant : Variant
  numBuf : NumBuf
  bufFrames : BufFrames
  deriving DecidableEq, Repr

/-- The build of `State.reset`: SIMPLE, the nominal 3 buffers, 1024 frames each.
DESIGN CHOICE (log 2): the spec leaves the build open; statements that must hold for every build quantify over it. -/
def Config.nominal : Config := ⟨.simple, .three, .f1024⟩

/-- The two agents of the output side (R97), which may step with no host transaction. -/
inductive Agent
  | sink
  | fill
  deriving DecidableEq, Repr

/-- `draw()`, a free input of a step with no law on it (R10): the n-th value drawn. It is the content of FILL_TIME
(R32). It has no body, so nothing can be proved of its values (log 4). -/
opaque Config.freeWord : Nat → Word

/-- How many turns the sink takes, where nothing orders the agents, before the fill engine serves a request it has: a free
choice, the n-th one (R110, I7). It is a finite number, which is the weak fairness of R131, and it has no body (log 7). -/
opaque Config.freeWait : Nat → Nat

end Sys2Proof
end

