-- ==== Sys2Proof/Machine/State.lean ====
section
/-! DEFINITION. The state of the block as plain data (10_state.md rule R12), with the environment's part of one
deterministic step: the schedule of events, the level of sink_ready, and the count of free values drawn. -/

namespace Sys2Proof.Machine

/-- SynthState, the one instance of the synthesis registers (R12, R13, R16 to R21). -/
structure Synth where
  /-- FREQ, UQ16.16 Hz (R16). -/
  freq : Word
  /-- VOLUME, UQ1.15 (R17). -/
  volume : Word
  /-- PHASE, UQ0.32 turns (R18). -/
  phase : Word
  /-- MOD_PHASE, UQ0.32 turns, FM only (R19). -/
  modPhase : Word
  /-- SAMPLES_REMAINING (R20). -/
  samplesRemaining : Word
  /-- ENV, UQ2.30 (R21). -/
  env : Word
  deriving DecidableEq, Repr

/-- Every synthesis register 0: after reset (R38) and after SHUTDOWN (R92). -/
def Synth.zero : Synth := ⟨0, 0, 0, 0, 0, 0⟩

/-- The error codes of R111, `none` being code 0 of reset. Codes 9 to 15 are never produced
(I6, log 14). -/
inductive ErrCode
  | none
  | reservedOpcode
  | reservedBits
  | cmdWhileRunning
  | badArgument
  | startWhileRunning
  | initFail
  | underrun
  | busAccess
  deriving DecidableEq, Repr

/-- The four sticky bits of STATUS (R27), bits 3 to 6 in this order. -/
structure Sticky where
  initErr : Bool
  underrun : Bool
  cmdErr : Bool
  busErr : Bool
  deriving DecidableEq, Repr

/-- No sticky bit set (R38). -/
def Sticky.clear : Sticky := ⟨false, false, false, false⟩

/-- The buffer RAM as the host sees it: bytes at bus-window offsets, in the canonical form `Memory.wf` (log 11). -/
abbrev Memory := List Host.Cell

/-- An event of the output trace (R102). -/
inductive OutEvent
  /-- `Play(b, frames)`: the frames of buffer b handed to the device, in playing order. -/
  | play (b : Nat) (frames : List Sample)
  /-- `Gap`: the sink found no buffer. -/
  | gap
  deriving DecidableEq, Repr

/-- The size of a bus transaction: 1, 2 or 4 bytes (R40). No other size and no offset of 2^16 or more can be written down
(log 17). -/
inductive AccessSize
  | byte
  | half
  | word
  deriving DecidableEq, Repr

/-- A host bus transaction: kind, offset, size and write data (R40). -/
inductive Txn
  | read (a : Offset) (n : AccessSize)
  | write (a : Offset) (n : AccessSize) (w : Word)
  deriving DecidableEq, Repr

/-- What the slave port answers to a transaction (R45, R94, R95, R105). -/
inductive BusResp
  /-- No transaction has been answered since reset (log 9). -/
  | idle
  /-- An admitted read's value. -/
  | data (w : Word)
  /-- An admitted write has completed. -/
  | done
  /-- The error response of a rejected transaction; it carries no data. -/
  | error
  deriving DecidableEq, Repr

/-- One turn of the outside world: which agent steps, a reset, or a change of the level of sink_ready
(R50, R110, R125, D33). -/
inductive Event
  /-- The host issues a transaction (R94, R95). -/
  | host (t : Txn)
  /-- The sink's turn: CONSUME or UNDERRUN (R98, R99). -/
  | sink
  /-- The fill engine's turn: FILL (R100). -/
  | fill
  /-- A reset (R125). -/
  | reset
  /-- The environment sets the level of sink_ready (R91, D33). -/
  | sinkReady (level : Bool)
  deriving DecidableEq, Repr

/-- Why the machine stops. No error of the block is among them: every error is a step that completes (R114). -/
inductive Fault
  /-- Raised by the sink's CONSUME and the fill engine's FILL when the head of their queue names a buffer that the
  build does not have. R35 excludes such states and no step from a state that keeps R35 reaches one. Safe (log 13). -/
  | noSuchBuffer (b : Nat)
  deriving DecidableEq, Repr

/-- Why a command has no meaning in the model. -/
inductive Refusal
  /-- Raised by an arm of `exec` whose command has no meaning yet; no arm is left so. Safe. -/
  | notModelled (mnemonic : String)
  deriving DecidableEq, Repr

/-- The state of the block (R12) and of its environment's inputs. -/
structure State where
  /-- The build (R7). No step writes it (R126, log 1). -/
  cfg : Config
  /-- SynthState (R13). -/
  synth : Synth
  /-- FREQ_ARG (R22). -/
  freqArg : Word
  /-- VOL_ARG (R23). -/
  volArg : Word
  /-- MASTER_GAIN (R24). -/
  masterGain : Word
  /-- STATUS.RUNNING (R27). -/
  running : Bool
  /-- The sticky bits of STATUS (R27). -/
  sticky : Sticky
  /-- ERR_CAUSE (R28). -/
  errCause : ErrCode
  /-- ERR_INFO (R29). -/
  errInfo : Word
  /-- The error count that only reset clears: model state with no register (R114, log 10). -/
  errCount : Nat
  /-- FILL_COUNT (R31). -/
  fillCount : Word
  /-- FILL_TIME (R32): the word the last fill pass drew. -/
  fillTime : Word
  /-- A fill pass has completed since reset, so FILL_TIME holds its draw (R32). -/
  fillTimeHeld : Bool
  /-- Buf (R34). -/
  mem : Memory
  /-- PQ, head first (R35). -/
  pq : List Nat
  /-- FQ, head first (R35). -/
  fq : List Nat
  /-- The output trace, oldest event first (R102). -/
  trace : List OutEvent
  /-- The answer to the host's latest transaction (R105). -/
  busResp : BusResp
  /-- Environment: the level of sink_ready (R91, log 3). -/
  sinkReady : Bool
  /-- Environment: the events still to come, the next one first (R50, log 5). -/
  schedule : List Event
  /-- With no event given, how many more turns the sink takes before the fill engine serves a request it has (R131, log 7). -/
  fillWait : Nat
  /-- How many free values have been drawn; the next `draw()` has this number (R10, log 4). -/
  draws : Nat
  deriving DecidableEq, Repr

/-- The state right after a reset (R38, R125) for a build, an environment and a number of the next draw.
FILL_TIME is unspecified: it holds a free value, and `fillTimeHeld` says that no read returns it (R32, log 4). -/
def State.resetWith (cfg : Config) (sinkReady : Bool) (schedule : List Event) (draws : Nat) : State where
  cfg := cfg
  synth := Synth.zero
  freqArg := 0
  volArg := 0
  masterGain := 0x8000#32
  running := false
  sticky := Sticky.clear
  errCause := .none
  errInfo := 0
  errCount := 0
  fillCount := 0
  fillTime := Config.freeWord draws
  fillTimeHeld := false
  mem := []
  pq := []
  fq := []
  trace := []
  busResp := .idle
  sinkReady := sinkReady
  schedule := schedule
  fillWait := Config.freeWait draws
  draws := draws + 1

/-- The machine right after reset (R38): the build of log 2, a sink that is ready (log 3), no event yet to come. -/
def State.reset : State := State.resetWith Config.nominal true [] 0

end Sys2Proof.Machine
end

