-- ==== Sys2Proof/Machine/Flags.lean ====
section
/-! DEFINITION. The flags of the block: the STATUS word, its sticky bits and its write-one-to-clear rule (10_state.md
rules R27, R37), and the error codes (60_exceptions.md rules R111, R112). -/

namespace Sys2Proof.Machine

/-- The code of an error (R111). -/
def ErrCode.code : ErrCode → Nat
  | .none => 0
  | .reservedOpcode => 1
  | .reservedBits => 2
  | .cmdWhileRunning => 3
  | .badArgument => 4
  | .startWhileRunning => 5
  | .initFail => 6
  | .underrun => 7
  | .busAccess => 8

/-- `STATUS.sticky(c) <- 1`: codes 1 to 5 set CMD_ERR, 6 INIT_ERR, 7 UNDERRUN, 8 BUS_ERR (R112). -/
def Sticky.set (k : Sticky) : ErrCode → Sticky
  | .none => k
  | .reservedOpcode => { k with cmdErr := true }
  | .reservedBits => { k with cmdErr := true }
  | .cmdWhileRunning => { k with cmdErr := true }
  | .badArgument => { k with cmdErr := true }
  | .startWhileRunning => { k with cmdErr := true }
  | .initFail => { k with initErr := true }
  | .underrun => { k with underrun := true }
  | .busAccess => { k with busErr := true }

/-- A write of w to STATUS clears each of bits 3 to 6 for which `w[i] = 1` (R27). -/
def Sticky.w1c (k : Sticky) (w : Word) : Sticky where
  initErr := k.initErr && !w.getLsbD 3
  underrun := k.underrun && !w.getLsbD 4
  cmdErr := k.cmdErr && !w.getLsbD 5
  busErr := k.busErr && !w.getLsbD 6

/-- SOUNDING, computed when read: `SAMPLES_REMAINING ≠ 0` (R27). -/
def State.sounding (s : State) : Bool := s.synth.samplesRemaining != 0

/-- One bit in its place. -/
def bitAt (b : Bool) (i : Nat) : Nat := if b then 2 ^ i else 0

/-- What STATUS reads: `(0..0, BUS_ERR, CMD_ERR, UNDERRUN, INIT_ERR, 0, SOUNDING, RUNNING)` (R27, R94). -/
def State.statusWord (s : State) : Word :=
  BitVec.ofNat 32 (bitAt s.running 0 + bitAt s.sounding 1 + bitAt s.sticky.initErr 3 + bitAt s.sticky.underrun 4
    + bitAt s.sticky.cmdErr 5 + bitAt s.sticky.busErr 6)

end Sys2Proof.Machine
end

