-- ==== Sys2Proof/Machine/Params.lean ====
section
/-! DEFINITION. The constants of 00_scope.md rules R7 and R8 and the fixed places of the register interface
(10_state.md rules R25, R34; 20_memory.md rule R41). -/

namespace Sys2Proof.Machine

/-- `SAMPLE_RATE` in samples per second (R7). -/
def sampleRate : Nat := 44100

/-- `NOTE_LEN_S` (R7). -/
def noteLenS : Nat := 5292

/-- `ATTACK_S` (R7). -/
def attackS : Nat := 200

/-- `RELEASE_S` (R7). -/
def releaseS : Nat := 2000

/-- `NOTE_LEN_F` (R7). -/
def noteLenF : Nat := 11025

/-- `ATTACK_F` (R7). -/
def attackF : Nat := 100

/-- `NOTE_LEN` of the variant (R20). -/
def noteLen : Variant → Nat
  | .simple => noteLenS
  | .fm => noteLenF

/-- `ENV_ONE`, the envelope value 1.0 (R8). -/
def envOne : Nat := 2 ^ 30

/-- `VOL_ONE`, the volume or gain 1.0 (R8). -/
def volOne : Nat := 2 ^ 15

/-- `FREQ_MAX`, 22050 Hz (R8). -/
def freqMax : Nat := 0x56220000

/-- `MODK = round(3.0 × 2^32 / 2π)` (R8). -/
def modK : Nat := 2050695827

/-- `KDEC = round(exp(−15/44100) × 2^32)` (R8). -/
def kDec : Nat := 4293506671

/-- `CLIP = round(0.8 × 32767)` (R8). -/
def clipLevel : Nat := 26214

/-- `S16_MAX`, the largest magnitude of a sample (R8). -/
def s16Max : Nat := 32767

/-- What ID reads (R25). -/
def idWord : Word := 0x50414343#32

/-- Where the buffer window begins (R41). -/
def bufBase : Nat := 0x1000

end Sys2Proof.Machine
end

