-- ==== Sys2Proof/Machine/Ops.lean ====
section
/-! DEFINITION. The operations over memory and registers that the meanings share: the byte memory in its canonical
form, the frames of the buffer RAM (20_memory.md rules R42 to R44), and recording and clearing an error
(60_exceptions.md rules R112, R117). -/

namespace Sys2Proof.Machine

/-! ## Bytes -/

/-- What an unlisted address reads as: 0, the reset contents of every frame (R38, log 11). -/
def unlistedByte : Byte := 0

/-- The canonical form: addresses strictly rising, no entry equal to what an unlisted address reads as. -/
abbrev Memory.wf (m : Memory) : Prop :=
  m.Pairwise (fun x y => x.1 < y.1) ∧ ∀ c ∈ m, c.2 ≠ unlistedByte

/-- The byte at an address. -/
def Memory.read : Memory → Nat → Byte
  | [], _ => unlistedByte
  | c :: m, a => if c.1 = a then c.2 else Memory.read m a

/-- The cells of a block of bytes laid out from an address on, less those an unlisted address reads as anyway. -/
def Memory.cells (base : Nat) : List Byte → Memory
  | [] => []
  | b :: bs => if b = unlistedByte then Memory.cells (base + 1) bs else (base, b) :: Memory.cells (base + 1) bs

/-- Store a block of bytes at rising addresses from `base` on. -/
def Memory.writeBlock (m : Memory) (base : Nat) (bs : List Byte) : Memory :=
  m.filter (fun c => decide (c.1 < base)) ++ Memory.cells base bs
    ++ m.filter (fun c => decide (base + bs.length ≤ c.1))

/-- Store 0 in every byte from `lo` up to `hi` (exclusive): no entry is left there. -/
def Memory.clearRange (m : Memory) (lo hi : Nat) : Memory := m.filter (fun c => decide (c.1 < lo ∨ hi ≤ c.1))

/-! ## Frames of the buffer RAM -/

/-- The two bytes of a frame, the lower-addressed first: `u16(s)[7:0]`, then `u16(s)[15:8]` (R43). -/
def frameBytes (p : Sample) : List Byte := [p.extractLsb' 0 8, p.extractLsb' 8 8]

/-- The byte offset of frame k of buffer b: `0x1000 + 2 × (b × BUF_FRAMES + k)` (R44). -/
def frameAddr (cfg : Config) (b k : Nat) : Nat := bufBase + 2 * (b * cfg.bufFrames.toNat + k)

/-- The first offset after the buffer window: `0x1000 + 2·NUM_BUF·BUF_FRAMES` (R41). -/
def windowEnd (cfg : Config) : Nat := bufBase + 2 * cfg.numBuf.toNat * cfg.bufFrames.toNat

/-- The frame whose lower byte is at an address (R43). -/
def Memory.readFrame (m : Memory) (a : Nat) : Sample := m.read (a + 1) ++ m.read a

/-- `Buf[b][k]` (R10, R34). -/
def State.frame (s : State) (b k : Nat) : Sample := s.mem.readFrame (frameAddr s.cfg b k)

/-- `[Buf[b][0], ..., Buf[b][BUF_FRAMES-1]]` (R98). -/
def State.bufferFrames (s : State) (b : Nat) : List Sample :=
  (List.range s.cfg.bufFrames.toNat).map (s.frame b)

/-- `for k: Buf[b][k] <- frames[k]` for as many frames as are given; the others are unchanged (R91, R93, R100). -/
def State.storeFrames (s : State) (b : Nat) (frames : List Sample) : State :=
  { s with mem := s.mem.writeBlock (frameAddr s.cfg b 0) (frames.flatMap frameBytes) }

/-- `for all b, k: Buf[b][k] <- 0` (R92). -/
def State.clearBuf (s : State) : State := { s with mem := s.mem.clearRange bufBase (windowEnd s.cfg) }

/-! ## Errors -/

/-- `raise Error(c, info)` (R112): ERR_CAUSE, ERR_INFO and the sticky bit of the code, and the model's error count
(R114). It transfers no control: the block has no trap entry (R116). -/
def State.raiseError (s : State) (c : ErrCode) (info : Word) : State :=
  { s with errCause := c, errInfo := info, sticky := s.sticky.set c, errCount := s.errCount + 1 }

/-- The nearest thing to returning from an error: a W1C write to STATUS clears the chosen sticky bits; ERR_CAUSE and
ERR_INFO stay (R27, R117). -/
def State.clearSticky (s : State) (w : Word) : State := { s with sticky := s.sticky.w1c w }

/-- The code of a rejected command word (R64). -/
def rejectCode : Reject → ErrCode
  | .reservedOpcode => .reservedOpcode
  | .reservedBits => .reservedBits

/-! ## Registers and output -/

/-- Put a whole SynthState in place (R13). -/
def State.setSynth (s : State) (y : Synth) : State := { s with synth := y }

/-- Append an event to the output trace (R102). -/
def State.emit (s : State) (e : OutEvent) : State := { s with trace := s.trace ++ [e] }

/-- Answer the host's transaction (R105). -/
def State.respond (s : State) (r : BusResp) : State := { s with busResp := r }

/-- The end of a fill pass into buffer b: `PQ.push_back(b)`, FILL_COUNT counts it modulo 2^32, and FILL_TIME takes a
fresh `draw()` (R91, R100, R31, R32). -/
def State.completeFill (s : State) (b : Nat) : State :=
  { s with
    pq := s.pq ++ [b]
    fillCount := s.fillCount + 1
    fillTime := Config.freeWord s.draws
    fillTimeHeld := true
    draws := s.draws + 1 }

end Sys2Proof.Machine
end

