-- ==== Sys2Proof/Machine/Operands.lean ====
section
/-! DEFINITION. The arithmetic of 00_scope.md rule R9 and the limits of the argument registers (10_state.md rules R22
to R24). -/

namespace Sys2Proof.Machine

/-- `rha(n, d)`: n/d rounded half away from zero, for d > 0 (R9). -/
def rha (n : Int) (d : Nat) : Int := n.sign * (((2 * n.natAbs + d) / (2 * d) : Nat) : Int)

/-- `rhu(n, d)`: n/d rounded half up, for n ≥ 0 and d > 0 (R9). -/
def rhu (n d : Nat) : Nat := (2 * n + d) / (2 * d)

/-- `clamp(v, lo, hi)` (R9). -/
def clamp (v lo hi : Int) : Int := min hi (max lo v)

/-- `u16(s)`: the 16-bit two's-complement pattern of s (R9). -/
def u16 (s : Int) : Sample := BitVec.ofInt 16 s

/-- `s16(p)`: the pattern read as a signed number (R9). -/
def s16 (p : Sample) : Int := p.toInt

/-- `min(w, limit)` of unsigned numbers: what a write-any-read-legal register stores (R22, R23, R24). -/
def warl (limit : Nat) (w : Word) : Word := BitVec.ofNat 32 (min w.toNat limit)

end Sys2Proof.Machine
end

