-- ==== Sys2Proof/Machine/Datapath.lean ====
section
/-! DEFINITION. The sample datapath (40_datapath.md): phase accumulator, envelopes, FM mixer, output conversion, one
step, and ADVANCE(N). Every intermediate is an exact integer; only the results are narrowed to their registers. -/

namespace Sys2Proof.Machine

/-- `inc(F) = rhu(F × 2^16, 44100)` (R68). -/
def phaseInc (f : Word) : Nat := rhu (f.toNat * 2 ^ 16) sampleRate

/-- A phase advanced by a number of phase units, modulo 2^32 (R69, R70). -/
def addPhase (p : Word) (n : Nat) : Word := BitVec.ofNat 32 (p.toNat + n)

/-- `age = NOTE_LEN − sr` of a sounding step (R72), as an integer (log 18). -/
def noteAge (v : Variant) (sr : Word) : Int := (noteLen v : Int) - (sr.toNat : Int)

/-- The SIMPLE envelope `env_s`: the smaller of the attack and the release ramp (R73). -/
def envSimple (age : Int) (sr : Word) : Int :=
  min (min (envOne : Int) (age * envOne / attackS)) (min (envOne : Int) ((sr.toNat : Int) * envOne / releaseS))

/-- The FM envelope `env_f`: the attack ramp, then the register ENV (R74). -/
def envFm (age : Int) (env : Word) : Int :=
  if age < attackF then age * envOne / attackF else (env.toNat : Int)

/-- The FM decay: `(ENV × KDEC) div 2^32` (R75). -/
def decayEnv (env : Word) : Word := BitVec.ofNat 32 (env.toNat * kDec / 2 ^ 32)

/-- The modulation signal `m` in phase units (R76). -/
def modulation (modPhase : Word) (e : Int) : Int := rha (sine modPhase * e * modK) (s16Max * envOne)

/-- The carrier's phase `(PHASE + m) mod 2^32`; m may be negative (R77). -/
def carrierPhase (phase : Word) (m : Int) : Word := BitVec.ofInt 32 ((phase.toNat : Int) + m)

/-- The hard-clipped carrier `c` (R77). -/
def carrier (phase : Word) (m : Int) : Int := clamp (sine (carrierPhase phase m)) (-clipLevel) clipLevel

/-- The SIMPLE output value before its clamp (R78). -/
def rawSimple (phase volume gain : Word) (e : Int) : Int :=
  rha (sine phase * volume.toNat * gain.toNat * e) (2 ^ 60)

/-- The FM output value before its clamp (R79). -/
def rawFm (c : Int) (volume : Word) (e : Int) : Int := rha (c * volume.toNat * e) (2 ^ 45)

/-- The clamp to `[−32767, 32767]` (R78, R79, R80). -/
def clampSample (v : Int) : Int := clamp v (-s16Max) s16Max

/-- A sounding step of the SIMPLE variant (R81): the sample and the SynthState it leaves. -/
def stepSimple (gain : Word) (y : Synth) : Int × Synth :=
  let sr := y.samplesRemaining
  let e := envSimple (noteAge .simple sr) sr
  let phase := addPhase y.phase (phaseInc y.freq)
  (clampSample (rawSimple phase y.volume gain e), { y with phase := phase, samplesRemaining := sr - 1 })

/-- A sounding step of the FM variant (R81): the sample and the SynthState it leaves. The ENV update comes after the
output (R75, D16). -/
def stepFm (y : Synth) : Int × Synth :=
  let sr := y.samplesRemaining
  let age := noteAge .fm sr
  let e := envFm age y.env
  let phase := addPhase y.phase (phaseInc y.freq)
  let modPhase := addPhase y.modPhase (2 * phaseInc y.freq)
  let c := carrier phase (modulation modPhase e)
  (clampSample (rawFm c y.volume e),
    { y with
      phase := phase
      modPhase := modPhase
      samplesRemaining := sr - 1
      env := if age < attackF then y.env else decayEnv y.env })

/-- One step (R81): a silent step returns 0 and changes nothing; a sounding step is the variant's. -/
def sampleStep (v : Variant) (gain : Word) (y : Synth) : Int × Synth :=
  if y.samplesRemaining = 0 then (0, y)
  else
    match v with
    | .simple => stepSimple gain y
    | .fm => stepFm y

/-- `ADVANCE(N)`: N steps in sequence, their samples in order and the SynthState they leave (R82). -/
def advance (v : Variant) (gain : Word) : Nat → Synth → List Int × Synth
  | 0, y => ([], y)
  | n + 1, y =>
    let r := sampleStep v gain y
    let rest := advance v gain n r.2
    (r.1 :: rest.1, rest.2)

/-- `frames <- ADVANCE(N); for k: Buf[b][k] <- frames[k]`: what GENERATE and a fill pass do to SynthState and Buf
(R91, R93, R100). -/
def State.advanceInto (s : State) (b n : Nat) : State :=
  let r := advance s.cfg.variant s.masterGain n s.synth
  (s.setSynth r.2).storeFrames b (r.1.map u16)

/-- One fill pass into buffer b: ADVANCE(BUF_FRAMES) into it, then enqueue and count it (R91, R100). -/
def State.fillPass (s : State) (b : Nat) : State :=
  (s.advanceInto b s.cfg.bufFrames.toNat).completeFill b

end Sys2Proof.Machine
end

