-- ==== Sys2Proof/Machine/Device.lean ====
section
/-! DEFINITION. The commands of the device: START, SHUTDOWN and GENERATE (41_commands.md rules R91 to R93). The
information word of an error they raise is the command word (R111), which is the encoding of the command (log 12). -/

namespace Sys2Proof.Machine

/-- Priming: a fill pass into each buffer in index order (R91). -/
def State.prime (s : State) : State := (List.range s.cfg.numBuf.toNat).foldl State.fillPass s

/-- START: refused with code 5 while running, then with code 6 while the sink is not ready; otherwise prime every
buffer and run (R91, R115). -/
def execStart (s : State) : Host.Outcome State Fault Refusal :=
  if s.running then .next (s.raiseError .startWhileRunning (encode .start))
  else if !s.sinkReady then .next (s.raiseError .initFail (encode .start))
  else .next { s.prime with running := true }

/-- Stop, dispose of the buffers and tear SynthState down (R92). -/
def State.dispose (s : State) : State :=
  { (s.clearBuf.setSynth Synth.zero) with running := false, pq := [], fq := [] }

/-- SHUTDOWN: nothing at all while stopped, otherwise stop and dispose in one step (R92, R55). -/
def execShutdown (s : State) : Host.Outcome State Fault Refusal :=
  if s.running then .next s.dispose else .next s

/-- GENERATE b, N: refused with code 3 while running, then with code 4 for an argument out of range; otherwise
ADVANCE(N) into buffer b (R93, R115). -/
def execGenerate (b n : Nat) (s : State) : Host.Outcome State Fault Refusal :=
  if s.running then .next (s.raiseError .cmdWhileRunning (encode (.generate b n)))
  else if s.cfg.numBuf.toNat ≤ b ∨ s.cfg.bufFrames.toNat < n then
    .next (s.raiseError .badArgument (encode (.generate b n)))
  else .next (s.advanceInto b n)

end Sys2Proof.Machine
end

