-- ==== Sys2Proof/Machine/Synth.lean ====
section
/-! DEFINITION. The commands that touch SynthState alone: NOP, TRIGGER and SET_VOLUME (41_commands.md rules R87 to R90). -/

namespace Sys2Proof.Machine

/-- NOP does nothing (R87). -/
def execNop (s : State) : Host.Outcome State Fault Refusal := .next s

/-- The SynthState a TRIGGER leaves (R88). -/
def triggered (v : Variant) (freqArg volArg : Word) : Synth where
  freq := freqArg
  volume := volArg
  phase := 0
  modPhase := 0
  samplesRemaining := BitVec.ofNat 32 (noteLen v)
  env := BitVec.ofNat 32 envOne

/-- TRIGGER starts a note from FREQ_ARG and VOL_ARG, in every device state (R88, R89). -/
def execTrigger (s : State) : Host.Outcome State Fault Refusal :=
  .next (s.setSynth (triggered s.cfg.variant s.freqArg s.volArg))

/-- SET_VOLUME copies VOL_ARG to VOLUME, in both variants and both device states (R90). -/
def execSetVolume (s : State) : Host.Outcome State Fault Refusal :=
  .next (s.setSynth { s.synth with volume := s.volArg })

end Sys2Proof.Machine
end

