-- ==== Sys2Proof/Machine/Dispatch.lean ====
section
/-! DEFINITION. The meaning of each command: one arm per constructor of `Instr` (30_encoding.md rule R63, 41_commands.md). -/

namespace Sys2Proof.Machine

def exec (i : Instr) (s : State) : Host.Outcome State Fault Refusal :=
  match i with
  | .nop => Sys2Proof.Machine.execNop s
  | .trigger => Sys2Proof.Machine.execTrigger s
  | .setVolume => Sys2Proof.Machine.execSetVolume s
  | .start => Sys2Proof.Machine.execStart s
  | .shutdown => Sys2Proof.Machine.execShutdown s
  | .generate b n => Sys2Proof.Machine.execGenerate b n s

end Sys2Proof.Machine
end

