-- ==== Sys2Proof/Machine/Bus.lean ====
section
/-! DEFINITION. Host bus transactions (42_bus_and_output.md rules R94, R95; 20_memory.md rules R45 to R48) over the
register map of 10_state.md rule R33. -/

namespace Sys2Proof.Machine

/-- The registers of the map (R33). -/
inductive Reg
  | id
  | cmd
  | status
  | errCause
  | errInfo
  | freqArg
  | volArg
  | masterGain
  | freq
  | volume
  | phase
  | modPhase
  | samplesRemaining
  | env
  | config
  | fillCount
  | fillTime
  deriving DecidableEq, Repr

/-- The byte offset of a register (R33). -/
def regOffset : Reg → Nat
  | .id => 0x000
  | .cmd => 0x004
  | .status => 0x008
  | .errCause => 0x00C
  | .errInfo => 0x010
  | .freqArg => 0x014
  | .volArg => 0x018
  | .masterGain => 0x01C
  | .freq => 0x020
  | .volume => 0x024
  | .phase => 0x028
  | .modPhase => 0x02C
  | .samplesRemaining => 0x030
  | .env => 0x034
  | .config => 0x038
  | .fillCount => 0x03C
  | .fillTime => 0x040

/-- All registers, in the order of the map (R33). -/
def allRegs : List Reg :=
  [.id, .cmd, .status, .errCause, .errInfo, .freqArg, .volArg, .masterGain, .freq, .volume, .phase, .modPhase,
    .samplesRemaining, .env, .config, .fillCount, .fillTime]

/-- What an offset names: a register, a word of the buffer window, or nothing (R41, R48). -/
inductive Place
  | reg (r : Reg)
  | window
  | unmapped
  deriving DecidableEq, Repr

/-- The place of an offset in the bus window (R41, R94). -/
def placeAt (cfg : Config) (a : Offset) : Place :=
  match allRegs.find? (fun r => regOffset r == a.toNat) with
  | some r => .reg r
  | none => if bufBase ≤ a.toNat ∧ a.toNat < windowEnd cfg then .window else .unmapped

/-- The number of bytes of an access size (R40). -/
def AccessSize.bytes : AccessSize → Nat
  | .byte => 1
  | .half => 2
  | .word => 4

/-- A transaction is admitted only when `n = 4` and `a mod 4 = 0` (R45). -/
def admitted (a : Offset) (n : AccessSize) : Bool := n.bytes == 4 && a.toNat % 4 == 0

/-- What CONFIG reads: VARIANT in [0], NUM_BUF in [7:4], BUF_FRAMES in [23:8] (R30). -/
def configWord (cfg : Config) : Word :=
  BitVec.ofNat 32 ((match cfg.variant with | .simple => 0 | .fm => 1) + cfg.numBuf.toNat * 2 ^ 4
    + cfg.bufFrames.toNat * 2 ^ 8)

/-- What FILL_TIME reads: the draw of the last fill pass, or a fresh `draw()` before the first one (R32, R47). -/
def State.fillTimeRead (s : State) : Word := if s.fillTimeHeld then s.fillTime else Config.freeWord s.draws

/-- A register's read value (R94). -/
def State.readReg (s : State) : Reg → Word
  | .id => idWord
  | .cmd => 0
  | .status => s.statusWord
  | .errCause => BitVec.ofNat 32 s.errCause.code
  | .errInfo => s.errInfo
  | .freqArg => s.freqArg
  | .volArg => s.volArg
  | .masterGain => s.masterGain
  | .freq => s.synth.freq
  | .volume => s.synth.volume
  | .phase => s.synth.phase
  | .modPhase =>
    match s.cfg.variant with
    | .simple => 0
    | .fm => s.synth.modPhase
  | .samplesRemaining => s.synth.samplesRemaining
  | .env => s.synth.env
  | .config => configWord s.cfg
  | .fillCount => s.fillCount
  | .fillTime => s.fillTimeRead

/-- Frame f of the whole RAM: `F[f] = Buf[f div BUF_FRAMES][f mod BUF_FRAMES]` (R44). -/
def State.ramFrame (s : State) (f : Nat) : Sample := s.frame (f / s.cfg.bufFrames.toNat) (f % s.cfg.bufFrames.toNat)

/-- A word of the buffer window: `u16(F[f+1])` above `u16(F[f])`, with `f = (a − 0x1000) div 2` (R44, R94). -/
def State.windowWord (s : State) (a : Nat) : Word :=
  let f := (a - bufBase) / 2
  s.ramFrame (f + 1) ++ s.ramFrame f

/-- The value an admitted read returns (R94, R48). -/
def State.readValue (s : State) (a : Offset) : Word :=
  match placeAt s.cfg a with
  | .reg r => s.readReg r
  | .window => s.windowWord a.toNat
  | .unmapped => 0

/-- A read of FILL_TIME before the first fill pass takes one free value; every other read takes none (R32, R47). -/
def State.afterRead (s : State) (a : Offset) : State :=
  if placeAt s.cfg a = .reg .fillTime ∧ s.fillTimeHeld = false then { s with draws := s.draws + 1 } else s

/-- A CMD write decodes w and executes the command or records the rejection, as one step (R86, R64). -/
def execWord (w : Word) (s : State) : Host.Outcome State Fault Refusal :=
  match decode w with
  | .command i => exec i s
  | .reject r => .next (s.raiseError (rejectCode r) w)

/-- The effect of an admitted write at a place (R95). Read-only registers, the buffer window and unmapped offsets ignore it
(R33, R48). -/
def writePlace (p : Place) (w : Word) (s : State) : Host.Outcome State Fault Refusal :=
  match p with
  | .reg .cmd => execWord w s
  | .reg .status => .next (s.clearSticky w)
  | .reg .freqArg => .next { s with freqArg := warl freqMax w }
  | .reg .volArg => .next { s with volArg := warl volOne w }
  | .reg .masterGain => .next { s with masterGain := warl volOne w }
  | .reg .id => .next s
  | .reg .errCause => .next s
  | .reg .errInfo => .next s
  | .reg .freq => .next s
  | .reg .volume => .next s
  | .reg .phase => .next s
  | .reg .modPhase => .next s
  | .reg .samplesRemaining => .next s
  | .reg .env => .next s
  | .reg .config => .next s
  | .reg .fillCount => .next s
  | .reg .fillTime => .next s
  | .window => .next s
  | .unmapped => .next s

/-- A transaction that fails admission: `raise Error(8, a)` and an error response, nothing else (R45). -/
def State.rejectTxn (s : State) (a : Offset) : State :=
  (s.raiseError .busAccess (a.setWidth 32)).respond .error

/-- The response completes a step that ends in a next state; a stop stays a stop. -/
def answer (r : BusResp) : Host.Outcome State Fault Refusal → Host.Outcome State Fault Refusal
  | .next t => .next (t.respond r)
  | .fault f => .fault f
  | .refused f => .refused f

/-- One host bus transaction, one atomic step (R94, R95, R50). -/
def hostStep (t : Txn) (s : State) : Host.Outcome State Fault Refusal :=
  match t with
  | .read a n =>
    if admitted a n then .next ((s.afterRead a).respond (.data (s.readValue a))) else .next (s.rejectTxn a)
  | .write a n w =>
    if admitted a n then answer .done (writePlace (placeAt s.cfg a) w s) else .next (s.rejectTxn a)

end Sys2Proof.Machine
end

