-- ==== Sys2Proof/Machine/Agents.lean ====
section
/-! DEFINITION. The steps of the sink and of the fill engine (42_bus_and_output.md rules R98 to R100), reset between
steps (70_reset_and_hazards.md rule R125), and what one event of the schedule does. -/

namespace Sys2Proof.Machine

/-- UNDERRUN: `emit Gap; raise Error(7, 0)`; nothing else changes (R99). -/
def State.underrunStep (s : State) : State := (s.emit .gap).raiseError .underrun 0

/-- CONSUME of buffer b, with the rest of PQ: emit its frames and request its refill (R98). -/
def State.consumeStep (s : State) (b : Nat) (rest : List Nat) : State :=
  { s.emit (.play b (s.bufferFrames b)) with pq := rest, fq := s.fq ++ [b] }

/-- The sink's turn (R98, R99). While the device is stopped the sink takes no step (R110, log 6). -/
def sinkStep (s : State) : Host.Outcome State Fault Refusal :=
  if s.running then
    match s.pq with
    | [] => .next s.underrunStep
    | b :: rest => if b < s.cfg.numBuf.toNat then .next (s.consumeStep b rest) else .fault (.noSuchBuffer b)
  else .next s

/-- The fill engine's turn (R100). While it is not enabled it takes no step (R110, log 6). -/
def fillStep (s : State) : Host.Outcome State Fault Refusal :=
  if s.running then
    match s.fq with
    | [] => .next s
    | b :: rest =>
      if b < s.cfg.numBuf.toNat then .next (State.fillPass { s with fq := rest } b) else .fault (.noSuchBuffer b)
  else .next s

/-- A reset (R125): every piece of state takes its reset value and the trace is emptied; the build (R126), the level of
sink_ready and the events still to come are not reset state, and free values already drawn are not drawn again (log 20). -/
def State.afterReset (s : State) : State := State.resetWith s.cfg s.sinkReady s.schedule s.draws

/-- What one event does. -/
def perform (e : Event) (s : State) : Host.Outcome State Fault Refusal :=
  match e with
  | .host t => hostStep t s
  | .sink => sinkStep s
  | .fill => fillStep s
  | .reset => .next s.afterReset
  | .sinkReady level => .next { s with sinkReady := level }

/-- The agent that steps when the schedule says nothing: the fill engine where it has a request and its wait is over, else the
sink, which is always enabled while running (R104, R110, log 7). -/
def State.nextAgent (s : State) : Agent :=
  if s.fq ≠ [] ∧ s.fillWait = 0 then .fill else .sink

/-- The block with no event given: a running block goes on by itself (R104), a stopped one waits with every register
kept (R124). The fill engine's wait falls at each turn that the sink takes while a request stands, and a fill pass begins a new
one, of a free length; so every run is weakly fair (R131, log 7). -/
def idleStep (s : State) : Host.Outcome State Fault Refusal :=
  if s.running then
    match s.nextAgent with
    | .sink => sinkStep { s with fillWait := if s.fq = [] then s.fillWait else s.fillWait - 1 }
    | .fill => fillStep { s with fillWait := Config.freeWait s.draws }
  else .next s

/-- The host transaction that a command word is: an admitted 32-bit write of w to CMD (R60, R66). -/
def cmdWrite (w : Word) : Event := .host (.write (BitVec.ofNat 16 (regOffset .cmd)) .word w)

end Sys2Proof.Machine
end

