-- ==== Sys2Proof/Machine/Step.lean ====
section
/-! DEFINITION. One atomic step of the block (20_memory.md rule R50): the next event of the schedule. -/

namespace Sys2Proof.Machine

/-- One step: the next event takes effect (R50, R53); with none given, the block goes on by itself (log 7). -/
def step (s : State) : Host.Outcome State Fault Refusal :=
  match s.schedule with
  | [] => idleStep s
  | e :: rest => perform e { s with schedule := rest }

/-- s with the command word of a table row as the host's very next transaction: an admitted write of it to CMD. The block
fetches nothing (R58): this is how a command comes to run (log 8). -/
def State.withFetchWord (s : State) (nbits w : Nat) : State :=
  { s with schedule := cmdWrite (tableWord nbits w) :: s.schedule }

end Sys2Proof.Machine
end

