-- ==== Sys2Proof/Machine/Assembler.lean ====
section
/-! DEFINITION. Programs as the spec writes them (30_encoding.md rules R66, R67): each line is one or more events of the
schedule, in order. The assembler is software; the block sees the events only. -/

namespace Sys2Proof.Machine

/-- A decimal literal as written: `num / 10^places` (R67). -/
structure Decimal where
  num : Nat
  places : Nat
  deriving DecidableEq, Repr

/-- `rha(d × scale)` as the data of a write, in exact arithmetic on the literal (R67). A value of 2^32 or more has no data word;
its low 32 bits stand for it (log 22). -/
def Decimal.scaled (d : Decimal) (scale : Nat) : Word := BitVec.ofInt 32 (rha (d.num * scale : Nat) (10 ^ d.places))

/-- `freq(f) = rha(f × 2^16)` (R67). -/
def Decimal.freq (f : Decimal) : Word := f.scaled (2 ^ 16)

/-- `vol(v) = rha(v × 2^15)` (R67). -/
def Decimal.vol (v : Decimal) : Word := v.scaled (2 ^ 15)

/-- A line of a program (R66, R67). -/
inductive Line
  /-- `WR`: an admitted 32-bit write at an offset. -/
  | wr (a : Offset) (w : Word)
  /-- `RD`: an admitted 32-bit read at an offset. -/
  | rd (a : Offset)
  /-- A command by its mnemonic. -/
  | command (i : Instr)
  /-- `.word`: a raw command word, which may be illegal. -/
  | word (w : Word)
  /-- `TRIG f, v`. -/
  | trig (f v : Decimal)
  /-- `SETVOL v`. -/
  | setVol (v : Decimal)
  /-- `GAIN g`. -/
  | gain (g : Decimal)
  /-- `CLRERR`. -/
  | clrErr
  /-- `@CONSUME`: one sink step. -/
  | consume
  /-- `@FILL`: one fill-engine step. -/
  | fill
  /-- `@RESET`. -/
  | reset
  deriving DecidableEq, Repr

/-- The write of a register by its name (R33, R66). -/
def wrReg (r : Reg) (w : Word) : Event := .host (.write (BitVec.ofNat 16 (regOffset r)) .word w)

/-- The word of a command line: GENERATE's by the formula `0x50000000 OR (b << 16) OR N`, the others' by their encoding (R66). For
operands that fit their fields it is the encoding. DESIGN CHOICE: R66 does not say whether an assembler takes an operand that exceeds
its field; the model puts any number into the formula and keeps the low 32 bits (log 22). -/
def commandWord : Instr → Word
  | .nop => encode .nop
  | .trigger => encode .trigger
  | .setVolume => encode .setVolume
  | .start => encode .start
  | .shutdown => encode .shutdown
  | .generate b n => 0x50000000#32 ||| (BitVec.ofNat 32 b <<< 16) ||| BitVec.ofNat 32 n

/-- The events of a line (R66, R67). -/
def Line.events : Line → List Event
  | .wr a w => [.host (.write a .word w)]
  | .rd a => [.host (.read a .word)]
  | .command i => [cmdWrite (commandWord i)]
  | .word w => [cmdWrite w]
  | .trig f v => [wrReg .freqArg f.freq, wrReg .volArg v.vol, cmdWrite (encode .trigger)]
  | .setVol v => [wrReg .volArg v.vol, cmdWrite (encode .setVolume)]
  | .gain g => [wrReg .masterGain g.vol]
  | .clrErr => [wrReg .status 0x00000078#32]
  | .consume => [.sink]
  | .fill => [.fill]
  | .reset => [.reset]

/-- The events of a program, line by line (R66). -/
def assemble (p : List Line) : List Event := p.flatMap Line.events

end Sys2Proof.Machine
end

