-- ==== Sys2Proof/Safety.lean ====
section
/-! DEFINITION. What the spec promises of every state of a run (the legal values of its registers, the queue
invariant of 10_state.md rule R35, the canonical buffer RAM), what a run free of errors is (60_exceptions.md rule R114), and
the words for events and output that the statements use. -/

namespace Sys2Proof.Machine

/-! ## Legal states -/

/-- The legal values of SynthState (R16, R17, R19, R20, R21). -/
structure Synth.Legal (v : Variant) (y : Synth) : Prop where
  freq : y.freq.toNat ≤ freqMax
  volume : y.volume.toNat ≤ volOne
  modPhase : v = .simple → y.modPhase = 0
  samplesRemaining : y.samplesRemaining.toNat ≤ noteLen v
  env : y.env.toNat ≤ envOne

/-- The queue invariant (R35): while running, each buffer index is in exactly one of PQ and FQ, once; while stopped, both
are empty. -/
def State.QueuesLegal (s : State) : Prop :=
  (s.running = true → (s.pq ++ s.fq).Perm (List.range s.cfg.numBuf.toNat)) ∧
    (s.running = false → s.pq = [] ∧ s.fq = [])

/-- The buffer RAM: the canonical form, nothing listed outside the buffer window (R34, R41), and no frame at −32768 (R34,
R80). -/
structure State.BufLegal (s : State) : Prop where
  canonical : s.mem.wf
  inWindow : ∀ c ∈ s.mem, bufBase ≤ c.1 ∧ c.1 < windowEnd s.cfg
  noLowest : ∀ b k, b < s.cfg.numBuf.toNat → k < s.cfg.bufFrames.toNat → s.frame b k ≠ 0x8000#16

/-- A Play event hands over exactly BUF_FRAMES frames of one of the build's buffers (R101). -/
def OutEvent.Legal (cfg : Config) : OutEvent → Prop
  | .play b frames => b < cfg.numBuf.toNat ∧ frames.length = cfg.bufFrames.toNat
  | .gap => True

/-- Every legal value and every invariant of 10_state.md, together. -/
structure State.Inv (s : State) : Prop where
  synth : s.synth.Legal s.cfg.variant
  freqArg : s.freqArg.toNat ≤ freqMax
  volArg : s.volArg.toNat ≤ volOne
  masterGain : s.masterGain.toNat ≤ volOne
  queues : s.QueuesLegal
  buf : s.BufLegal
  trace : ∀ e ∈ s.trace, e.Legal s.cfg
  /-- ERR_CAUSE is 0 until the first error event and never after it (R28, R111). -/
  errors : s.errCause = .none ↔ s.errCount = 0
  /-- A set sticky bit comes from an error event (R27). -/
  stickyBits : s.sticky ≠ Sticky.clear → s.errCount ≠ 0

/-- Every piece of state at its reset value (R38), FILL_TIME being unspecified: a read of it is a free value. -/
structure State.HasResetValues (s : State) : Prop where
  synth : s.synth = ⟨0, 0, 0, 0, 0, 0⟩
  freqArg : s.freqArg = 0
  volArg : s.volArg = 0
  masterGain : s.masterGain = 0x8000#32
  status : s.statusWord = 0
  errCause : s.errCause.code = 0
  errInfo : s.errInfo = 0
  errCount : s.errCount = 0
  fillCount : s.fillCount = 0
  fillTime : s.fillTimeRead = Config.freeWord s.draws
  frames : ∀ b k, s.frame b k = 0
  pq : s.pq = []
  fq : s.fq = []
  trace : s.trace = []

/-! ## Safe runs -/

/-- The next step ends in a next state: no fault, no refusal. -/
def State.StepsOn (s : State) : Prop := ∃ t, step s = .next t

/-- No error has been recorded since reset, whatever W1C writes have cleared (R114). -/
def State.ErrorFree (s : State) : Prop := s.errCount = 0

/-- The run has ended: the host has no transaction left to issue and the device is stopped (R104). DEDUCED: other events still in
the schedule (turns of the stopped agents, resets, changes of sink_ready) do not keep it from having ended (log 23). -/
def State.RunEnded (s : State) : Prop := (∀ x : Txn, .host x ∉ s.schedule) ∧ s.running = false

/-! ## Events -/

/-- The event is an admitted write of w to register r (R95). -/
def Event.Writes (e : Event) (r : Reg) (w : Word) : Prop :=
  e = .host (.write (BitVec.ofNat 16 (regOffset r)) .word w)

/-- The event is the command i: an admitted write to CMD of a word that decodes to it (R86). -/
def Event.Commands (e : Event) (i : Instr) : Prop := ∃ w, e = cmdWrite w ∧ decode w = .command i

/-- The event starts the next step of s: it is the head of the schedule. -/
def State.NextEvent (s : State) (e : Event) : Prop := s.schedule.head? = some e

/-- The events under which a started device plays its note undisturbed (R103): no TRIGGER, SET_VOLUME or SHUTDOWN, and
further no reset and no write to MASTER_GAIN, which the samples depend on too (R78, log 21). -/
def Event.Undisturbing (e : Event) : Prop :=
  e ≠ .reset ∧ (∀ w, ¬ e.Writes .masterGain w) ∧ ¬ e.Commands .trigger ∧ ¬ e.Commands .setVolume
    ∧ ¬ e.Commands .shutdown

/-! ## Fairness (70_reset_and_hazards.md rule R131) -/

/-- The agent's step is enabled: the sink's while running, the fill engine's while running with a request (R98, R99, R100,
R110). -/
def State.Enabled (s : State) : Agent → Prop
  | .sink => s.running = true
  | .fill => s.running = true ∧ s.fq ≠ []

/-- The event that is an agent's turn. -/
def turnOf : Agent → Event
  | .sink => .sink
  | .fill => .fill

/-- The next step of s is the agent's: its turn stands at the head of the schedule, or nothing is given and it is the one to go
on. -/
def State.Takes (s : State) (a : Agent) : Prop :=
  s.NextEvent (turnOf a) ∨ (s.schedule = [] ∧ s.running = true ∧ s.nextAgent = a)

/-- An infinite run in any order of events (R50, R110): the n-th event takes the n-th state to the next. -/
def IsEventRun (ev : Nat → Event) (run : Nat → State) : Prop := ∀ n, perform (ev n) (run n) = .next (run (n + 1))

/-- Weak fairness of such a run (R131): no agent stays enabled from some point on without ever taking its step. -/
def WeaklyFair (ev : Nat → Event) (run : Nat → State) : Prop :=
  ∀ (a : Agent) (n : Nat), ∃ m, n ≤ m ∧ (¬ (run m).Enabled a ∨ ev m = turnOf a)

/-- An infinite run of the machine's own step. -/
def IsStepRun (run : Nat → State) : Prop := ∀ n, step (run n) = .next (run (n + 1))

/-! ## Bytes -/

/-- Every byte of memory reads in t as in s. -/
def State.SameBytes (s t : State) : Prop := ∀ a, t.mem.read a = s.mem.read a

/-- Every byte of memory outside `[lo, hi)` reads in t as in s. -/
def State.SameBytesOutside (s t : State) (lo hi : Nat) : Prop := ∀ a, a < lo ∨ hi ≤ a → t.mem.read a = s.mem.read a

/-! ## Output -/

/-- The audio stream of a trace: the concatenated frames of its Play events (R102). -/
def playedFrames : List OutEvent → List Sample
  | [] => []
  | .play _ frames :: es => frames ++ playedFrames es
  | .gap :: es => playedFrames es

/-- No underrun has occurred in a trace (R99, R103). -/
def GapFree (es : List OutEvent) : Prop := OutEvent.gap ∉ es

end Sys2Proof.Machine
end

