-- ==== Sys2Proof/Certificates/Slice0/Obligations.lean ====
section
/-! DEFINITION. The statements for the provers. Each says which rule of spec/ it formalises; constants are written as the
numerals of the spec, not as the model's names for them, wherever that reads well. -/

open Sys2Proof Sys2Proof.Machine

/-! ## Encoding (30_encoding.md) -/

/-- Decoding the encoding of a well-formed command gives the command back, with every operand (R61, R62, R63). -/
def Obligations.DecodeOfEncodeIsTheCommand : Prop :=
  ∀ i : Instr, i.WellFormed → decode (encode i) = .command i

/-- Each word has one meaning: a word that decodes to a command is that command's encoding, and the command is
well-formed (R61, R62). -/
def Obligations.AcceptedWordIsItsCommandsEncoding : Prop :=
  ∀ (w : Word) (i : Instr), decode w = .command i → i.WellFormed ∧ encode i = w

/-- R64: the decoding procedure, by the bit fields and masks of its text, and what REJECT(c) means.
The error count is the model's own (log 10). -/
def Obligations.DecodingFollowsTheDecodeProcedure : Prop :=
  ∀ w : Word,
    (6 ≤ (w.extractLsb' 28 4).toNat → decode w = .reject .reservedOpcode) ∧
    ((w.extractLsb' 28 4).toNat = 5 → w &&& 0x0FFCF000#32 ≠ 0 → decode w = .reject .reservedBits) ∧
    ((w.extractLsb' 28 4).toNat ≤ 4 → w &&& 0x0FFFFFFF#32 ≠ 0 → decode w = .reject .reservedBits) ∧
    ((w.extractLsb' 28 4).toNat = 5 → w &&& 0x0FFCF000#32 = 0 →
      decode w = .command (.generate (w.extractLsb' 16 2).toNat (w.extractLsb' 0 12).toNat)) ∧
    (w &&& 0x0FFFFFFF#32 = 0 →
      ((w.extractLsb' 28 4).toNat = 0 → decode w = .command .nop) ∧
      ((w.extractLsb' 28 4).toNat = 1 → decode w = .command .trigger) ∧
      ((w.extractLsb' 28 4).toNat = 2 → decode w = .command .setVolume) ∧
      ((w.extractLsb' 28 4).toNat = 3 → decode w = .command .start) ∧
      ((w.extractLsb' 28 4).toNat = 4 → decode w = .command .shutdown)) ∧
    (∀ s : State,
      (decode w = .reject .reservedOpcode → execWord w s = .next { s with
        errCause := .reservedOpcode, errInfo := w, sticky := { s.sticky with cmdErr := true }, errCount := s.errCount + 1 }) ∧
      (decode w = .reject .reservedBits → execWord w s = .next { s with
        errCause := .reservedBits, errInfo := w, sticky := { s.sticky with cmdErr := true }, errCount := s.errCount + 1 }))

/-- R63: the opcode map, row by row; a word selects a row exactly when it decodes to a command of that row, and a word of a
reserved opcode selects none. -/
def Obligations.SelectingARowIsDecodingToIt : Prop :=
  (opcodeRow .nop = ⟨0x00000000#32, 0xFFFFFFFF#32⟩ ∧ opcodeRow .trigger = ⟨0x10000000#32, 0xFFFFFFFF#32⟩ ∧
    opcodeRow .setVolume = ⟨0x20000000#32, 0xFFFFFFFF#32⟩ ∧ opcodeRow .start = ⟨0x30000000#32, 0xFFFFFFFF#32⟩ ∧
    opcodeRow .shutdown = ⟨0x40000000#32, 0xFFFFFFFF#32⟩ ∧
    ∀ b n, opcodeRow (.generate b n) = ⟨0x50000000#32, 0xFFFCF000#32⟩) ∧
  (∀ (i : Instr) (w : Word), (opcodeRow i).selects w = true ↔ w &&& (opcodeRow i).mask = (opcodeRow i).matchBits) ∧
  (∀ (w : Word) (i : Instr), 6 ≤ (w.extractLsb' 28 4).toNat → (opcodeRow i).selects w = false) ∧
  (∀ (w : Word) (i : Instr), decode w = .command i → (opcodeRow i).selects w = true) ∧
    ∀ (w : Word) (i : Instr), (opcodeRow i).selects w = true →
      ∃ j, decode w = .command j ∧ opcodeRow j = opcodeRow i

/-- Words written out from the fields of R61 decode to the commands they stand for, one for each command, and three that are
no command (R65). -/
def Obligations.WrittenOutWordsDecode : Prop :=
  decode 0x00000000#32 = .command .nop ∧ decode 0x10000000#32 = .command .trigger ∧
    decode 0x20000000#32 = .command .setVolume ∧ decode 0x30000000#32 = .command .start ∧
    decode 0x40000000#32 = .command .shutdown ∧ decode 0x50020400#32 = .command (.generate 2 1024) ∧
    decode 0x10000100#32 = .reject .reservedBits ∧ decode 0x50001000#32 = .reject .reservedBits ∧
    decode 0x60000000#32 = .reject .reservedOpcode

/-! ## A step performs the next event, and so runs the decoded command (20_memory.md R50, 41_commands.md R86, 42 R95) -/

/-- When the next event writes to CMD a word that decodes to a command, the step is that command's `exec` at the state with
the event taken off the schedule, and then the bus answers completion; when the word is rejected, the step records the
error and the bus answers completion. Whatever the next event is, the step is that event performed at the state with it taken
off; a host transaction is performed by `hostStep`, an agent's turn by its step.
The schedule (log 5, log 8) and the kept bus answer (log 9) are the model's own. -/
def Obligations.StepRunsTheWrittenCommand : Prop :=
  (∀ (s : State) (w : Word) (rest : List Event), s.schedule = cmdWrite w :: rest →
    (∀ i, decode w = .command i → step s = answer .done (exec i { s with schedule := rest })) ∧
    (∀ r, decode w = .reject r →
      step s = .next ((State.raiseError { s with schedule := rest } (rejectCode r) w).respond .done))) ∧
  (∀ (s : State) (e : Event) (rest : List Event), s.schedule = e :: rest →
    step s = perform e { s with schedule := rest }) ∧
  (∀ s : State, (∀ x : Txn, perform (.host x) s = hostStep x s) ∧ perform .sink s = sinkStep s ∧
    perform .fill s = fillStep s ∧ perform .reset s = .next s.afterReset ∧
    ∀ level, perform (.sinkReady level) s = .next { s with sinkReady := level })

/-! ## The commands (41_commands.md) -/

/-- R87: the word of NOP; NOP leaves every register unchanged in any state; a word with OP = 0 and a reserved bit set is rejected
with code 2. -/
def Obligations.NopChangesNothing : Prop :=
  decode 0x00000000#32 = .command .nop ∧ (∀ s : State, exec .nop s = .next s) ∧
    ∀ w : Word, (w.extractLsb' 28 4).toNat = 0 → w ≠ 0 → decode w = .reject .reservedBits

/-- R88: TRIGGER's word; its whole next state, in every device state; SOUNDING becomes 1; a second TRIGGER wipes out the first;
and a FREQ_ARG or VOL_ARG of 0 gives a note of zeros that still counts down. -/
def Obligations.TriggerStartsTheNoteAfresh : Prop :=
  decode 0x10000000#32 = .command .trigger ∧ ∀ s : State,
    exec .trigger s = .next { s with synth := {
      freq := s.freqArg
      volume := s.volArg
      phase := 0
      modPhase := 0
      samplesRemaining := match s.cfg.variant with | .simple => 5292#32 | .fm => 11025#32
      env := 0x40000000#32 } } ∧
    ∀ t, exec .trigger s = .next t → t.sounding = true ∧
      (∀ f v, exec .trigger { t with freqArg := f, volArg := v } = exec .trigger { s with freqArg := f, volArg := v }) ∧
      (s.freqArg = 0 ∨ s.volArg = 0 → ∀ n,
        let r := advance s.cfg.variant s.masterGain n t.synth
        r.1 = List.replicate n 0 ∧ r.2.samplesRemaining.toNat = noteLen s.cfg.variant - n)

/-- R89: immediately after a TRIGGER step, SAMPLES_REMAINING = NOTE_LEN, PHASE = 0 and MOD_PHASE = 0. -/
def Obligations.TriggerPostcondition : Prop :=
  ∀ s : State, ∃ t, exec .trigger s = .next t ∧ t.synth.samplesRemaining.toNat = noteLen s.cfg.variant ∧
    t.synth.phase = 0 ∧ t.synth.modPhase = 0

/-- R90: SET_VOLUME's word; it copies VOL_ARG to VOLUME, in both variants and both device states, and writes nothing else; while
no note sounds that is not heard, and a TRIGGER overwrites it. -/
def Obligations.SetVolumeCopiesVolArg : Prop :=
  decode 0x20000000#32 = .command .setVolume ∧ ∀ s : State,
    exec .setVolume s = .next { s with synth := { s.synth with volume := s.volArg } } ∧
    ∀ t, exec .setVolume s = .next t →
      (s.synth.samplesRemaining = 0 → ∀ n, (advance s.cfg.variant s.masterGain n t.synth).1 = List.replicate n 0) ∧
      ∃ u, exec .trigger t = .next u ∧ u.synth.volume = s.volArg

/-- START's two refusals (R91, R115): code 5 while running whatever the sink, code 6 while stopped with the sink not ready;
the record is the only effect.
The error count is the model's own (log 10). -/
def Obligations.StartIsRefusedWithItsRecord : Prop :=
  ∀ s : State,
    (s.running = true → exec .start s = .next { s with
      errCause := .startWhileRunning, errInfo := 0x30000000#32, sticky := { s.sticky with cmdErr := true },
      errCount := s.errCount + 1 }) ∧
    (s.running = false → s.sinkReady = false → exec .start s = .next { s with
      errCause := .initFail, errInfo := 0x30000000#32, sticky := { s.sticky with initErr := true },
      errCount := s.errCount + 1 })

/-- START on a stopped device with a ready sink (R91): it completes; SynthState has advanced by NUM_BUF × BUF_FRAMES steps;
every buffer holds its part of those samples in index order and is enqueued; FILL_COUNT counts the passes; FILL_TIME holds the
last pass's draw; bytes outside the buffers and every other field are unchanged.
The numbering of draws is the model's own (log 4). -/
def Obligations.StartPrimesEveryBufferAndRuns : Prop :=
  ∀ s : State, s.running = false → s.sinkReady = true →
    let nb := s.cfg.numBuf.toNat
    let bf := s.cfg.bufFrames.toNat
    let adv := advance s.cfg.variant s.masterGain (nb * bf) s.synth
    ∃ t, exec .start s = .next t ∧
      t = { s with
        synth := adv.2
        mem := t.mem
        pq := s.pq ++ List.range nb
        fillCount := s.fillCount + BitVec.ofNat 32 nb
        fillTime := Config.freeWord (s.draws + nb - 1)
        fillTimeHeld := true
        draws := s.draws + nb
        running := true } ∧
      (∀ b k, b < nb → k < bf → t.frame b k = u16 (adv.1.getD (b * bf + k) 0)) ∧
      s.SameBytesOutside t 0x1000 (0x1000 + 2 * nb * bf)

/-- R92: SHUTDOWN's word; on a stopped device nothing at all; on a running one it stops, empties both queues, zeroes every frame and
SynthState, and leaves bytes outside the buffers and every other field unchanged; a second one changes nothing. -/
def Obligations.ShutdownStopsAndDisposes : Prop :=
  decode 0x40000000#32 = .command .shutdown ∧ ∀ s : State,
    (s.running = false → exec .shutdown s = .next s) ∧
    (s.running = true → ∃ t, exec .shutdown s = .next t ∧
      t = { s with running := false, pq := [], fq := [], synth := ⟨0, 0, 0, 0, 0, 0⟩, mem := t.mem } ∧
      (∀ b k, b < s.cfg.numBuf.toNat → k < s.cfg.bufFrames.toNat → t.frame b k = 0) ∧
      s.SameBytesOutside t 0x1000 (0x1000 + 2 * s.cfg.numBuf.toNat * s.cfg.bufFrames.toNat) ∧
      exec .shutdown t = .next t)

/-- GENERATE in range on a stopped device (R93): it completes; SynthState has advanced by N steps; frames 0 to N−1 of buffer b
hold their samples; every byte outside those frames and every other field is unchanged. -/
def Obligations.GenerateRendersIntoTheBuffer : Prop :=
  ∀ (s : State) (b n : Nat), s.running = false → b < s.cfg.numBuf.toNat → n ≤ s.cfg.bufFrames.toNat →
    let adv := advance s.cfg.variant s.masterGain n s.synth
    ∃ t, exec (.generate b n) s = .next t ∧
      t = { s with synth := adv.2, mem := t.mem } ∧
      (∀ k, k < n → t.frame b k = u16 (adv.1.getD k 0)) ∧
      s.SameBytesOutside t (frameAddr s.cfg b 0) (frameAddr s.cfg b 0 + 2 * n)

/-- GENERATE's two refusals (R93, R115): code 3 while running whatever its arguments, code 4 on a stopped device for a buffer
index or count out of range; the record, with the command word, is the only effect.
The error count is the model's own (log 10). The operands are any numbers: where they do not fit their fields (b of 4 or more, N of
4096 or more) no word decodes to the command, and both the refusal and its information word are the model's own (log 16). -/
def Obligations.GenerateIsRefusedWithItsRecord : Prop :=
  ∀ (s : State) (b n : Nat),
    let w : Word := BitVec.ofNat 32 (0x50000000 + b * 0x10000 + n)
    (s.running = true → exec (.generate b n) s = .next { s with
      errCause := .cmdWhileRunning, errInfo := w, sticky := { s.sticky with cmdErr := true },
      errCount := s.errCount + 1 }) ∧
    (s.running = false → (s.cfg.numBuf.toNat ≤ b ∨ s.cfg.bufFrames.toNat < n) → exec (.generate b n) s = .next { s with
      errCause := .badArgument, errInfo := w, sticky := { s.sticky with cmdErr := true },
      errCount := s.errCount + 1 })

/-- The frame of the commands (R22 to R24, R86, R92): no command writes an argument register, the trace, the bus response, the
build or the environment; NOP, TRIGGER and SET_VOLUME write no byte of memory, no queue, no counter and no flag; SHUTDOWN writes
no error record and no counter; bytes outside the buffer window never change. -/
def Obligations.CommandsLeaveTheRestAlone : Prop :=
  ∀ (i : Instr) (s t : State), exec i s = .next t →
    (t.cfg = s.cfg ∧ t.freqArg = s.freqArg ∧ t.volArg = s.volArg ∧ t.masterGain = s.masterGain ∧ t.trace = s.trace ∧
      t.busResp = s.busResp ∧ t.sinkReady = s.sinkReady ∧ t.schedule = s.schedule ∧ t.fillWait = s.fillWait) ∧
    s.SameBytesOutside t 0x1000 (0x1000 + 2 * s.cfg.numBuf.toNat * s.cfg.bufFrames.toNat) ∧
    (i = .nop ∨ i = .trigger ∨ i = .setVolume → s.SameBytes t ∧ t.pq = s.pq ∧ t.fq = s.fq ∧ t.running = s.running ∧
      t.sticky = s.sticky ∧ t.errCause = s.errCause ∧ t.errInfo = s.errInfo ∧ t.fillCount = s.fillCount ∧
      t.fillTime = s.fillTime) ∧
    (i = .shutdown → t.sticky = s.sticky ∧ t.errCause = s.errCause ∧ t.errInfo = s.errInfo ∧
      t.fillCount = s.fillCount ∧ t.fillTime = s.fillTime)

/-- The information word of a command's error is the word that was written to CMD (R29, R111).
The error count, by which the statement tells an error, is the model's own (log 10). -/
def Obligations.CommandErrorCarriesTheWrittenWord : Prop :=
  ∀ (w : Word) (s t : State), execWord w s = .next t → t.errCount ≠ s.errCount → t.errInfo = w

/-! ## The datapath (40_datapath.md, 43_sine_rom.md, 00_scope.md R9) -/

/-- `rha` rounds to the nearest integer, and an exact half away from zero (R9). -/
def Obligations.RoundingIsToNearestHalfAwayFromZero : Prop :=
  ∀ (n : Int) (d : Nat), 0 < d →
    2 * |d * rha n d - n| ≤ d ∧ (2 * |d * rha n d - n| = d → |n| < d * |rha n d|)

/-- The phase increment (R68): FREQ × 2^16 / 44100 rounded half up, so within [0, 2^31] for every legal FREQ, 0 for 0 and half
a turn at FREQ_MAX. -/
def Obligations.PhaseIncrementIsRoundedAndBounded : Prop :=
  (∀ f : Word, 2 * 44100 * phaseInc f ≤ 2 * f.toNat * 2 ^ 16 + 44100 ∧
      2 * f.toNat * 2 ^ 16 + 44100 < 2 * 44100 * (phaseInc f + 1)) ∧
    (∀ f : Word, f.toNat ≤ 0x56220000 → phaseInc f ≤ 2 ^ 31) ∧
    phaseInc 0 = 0 ∧ phaseInc 0x56220000#32 = 2 ^ 31 ∧ phaseInc 0x00DC0000#32 = 21426141

/-- R107: the quarter-wave symmetry of the sine ROM and its special values. -/
def Obligations.SineRomIsQuarterWaveSymmetric : Prop :=
  (∀ k, k ≤ 256 → sineRom (512 - k) = sineRom k ∧ sineRom ((512 + k) % 1024) = -sineRom k ∧
      sineRom ((1024 - k) % 1024) = -sineRom k) ∧
    sineRom 0 = 0 ∧ sineRom 512 = 0 ∧ sineRom 256 = 32767 ∧ sineRom 768 = -32767

/-- A sounding SIMPLE step (R69, R71, R73, R78, R81): the sample and the whole SynthState it leaves. -/
def Obligations.SimpleSoundingStep : Prop :=
  ∀ (g : Word) (y : Synth), y.samplesRemaining ≠ 0 → y.samplesRemaining.toNat ≤ 5292 →
    let sr := y.samplesRemaining.toNat
    let e : Nat := min (min (2 ^ 30) ((5292 - sr) * 2 ^ 30 / 200)) (min (2 ^ 30) (sr * 2 ^ 30 / 2000))
    let phase : Word := y.phase + BitVec.ofNat 32 (phaseInc y.freq)
    (sampleStep .simple g y).1 =
        max (-32767) (min 32767 (rha (sine phase * y.volume.toNat * g.toNat * e) (2 ^ 60))) ∧
      (sampleStep .simple g y).2 =
        { y with phase := phase, samplesRemaining := BitVec.ofNat 32 (sr - 1) }

/-- A sounding FM step (R69, R70, R74 to R77, R79, R81): the sample and the whole SynthState it leaves. -/
def Obligations.FmSoundingStep : Prop :=
  ∀ (g : Word) (y : Synth), y.samplesRemaining ≠ 0 → y.samplesRemaining.toNat ≤ 11025 →
    let sr := y.samplesRemaining.toNat
    let age := 11025 - sr
    let e : Nat := if age < 100 then age * 2 ^ 30 / 100 else y.env.toNat
    let phase : Word := y.phase + BitVec.ofNat 32 (phaseInc y.freq)
    let modPhase : Word := y.modPhase + BitVec.ofNat 32 (2 * phaseInc y.freq)
    let m : Int := rha (sine modPhase * e * 2050695827) (32767 * 2 ^ 30)
    let c : Int := max (-26214) (min 26214 (sine (phase + BitVec.ofInt 32 m)))
    (sampleStep .fm g y).1 = max (-32767) (min 32767 (rha (c * y.volume.toNat * e) (2 ^ 45))) ∧
      (sampleStep .fm g y).2 =
        { y with
          phase := phase
          modPhase := modPhase
          samplesRemaining := BitVec.ofNat 32 (sr - 1)
          env := if age < 100 then y.env else BitVec.ofNat 32 (y.env.toNat * 4293506671 / 2 ^ 32) }

/-- R80: every sample of every ADVANCE is in [−32767, 32767]; within the limits of R11 the clamp never fires, FM samples stay
within ±26214; and the sample is stored as u16(s). -/
def Obligations.SamplesStayInRangeAndTheClampNeverFires : Prop :=
  (∀ (v : Variant) (g : Word) (n : Nat) (y : Synth), ∀ x ∈ (advance v g n y).1, -32767 ≤ x ∧ x ≤ 32767) ∧
  (∀ (g : Word) (y : Synth), g.toNat ≤ 0x8000 → y.Legal .simple → y.samplesRemaining ≠ 0 →
    (sampleStep .simple g y).1 =
      rawSimple (addPhase y.phase (phaseInc y.freq)) y.volume g
        (envSimple (noteAge .simple y.samplesRemaining) y.samplesRemaining)) ∧
  (∀ (g : Word) (y : Synth), y.Legal .fm → y.samplesRemaining ≠ 0 →
    let e := envFm (noteAge .fm y.samplesRemaining) y.env
    let m := modulation (addPhase y.modPhase (2 * phaseInc y.freq)) e
    (sampleStep .fm g y).1 = rawFm (carrier (addPhase y.phase (phaseInc y.freq)) m) y.volume e) ∧
  (∀ (g : Word) (y : Synth), y.Legal .fm → -26214 ≤ (sampleStep .fm g y).1 ∧ (sampleStep .fm g y).1 ≤ 26214) ∧
  (∀ (s : State) (b n k : Nat), k < n →
    (s.advanceInto b n).frame b k = u16 ((advance s.cfg.variant s.masterGain n s.synth).1.getD k 0))

/-- R82: ADVANCE(N) is N steps in sequence, each from the SynthState the one before left, ENV and every other register included,
and returns their samples in order, zeros from the end of the note on; SAMPLES_REMAINING falls by min(N, SAMPLES_REMAINING), and
PHASE, and MOD_PHASE in FM, turn by that many increments; FREQ and VOLUME never change; ADVANCE(0) does nothing. -/
def Obligations.AdvanceTurnsThePhasesByTheSoundingSteps : Prop :=
  ∀ (v : Variant) (g : Word) (n : Nat) (y : Synth),
    let r := advance v g n y
    let m := min n y.samplesRemaining.toNat
    r.1.length = n ∧ r.2.freq = y.freq ∧ r.2.volume = y.volume ∧
      r.2.phase = y.phase + BitVec.ofNat 32 (m * phaseInc y.freq) ∧
      (v = .fm → r.2.modPhase = y.modPhase + BitVec.ofNat 32 (m * (2 * phaseInc y.freq))) ∧
      (v = .simple → r.2.modPhase = y.modPhase) ∧
      r.2.samplesRemaining.toNat = y.samplesRemaining.toNat - m ∧
      (∀ k, k < n → r.1[k]? = some (sampleStep v g (advance v g k y).2).1) ∧
      (∀ k, (advance v g (k + 1) y).2 = (sampleStep v g (advance v g k y).2).2) ∧
      (∀ k, m ≤ k → k < n → r.1[k]? = some 0) ∧
      (n = 0 → r = ([], y))

/-- R83: the six properties that follow from the datapath's rules; of the fifth also that neither envelope is at ENV_ONE before the age
where the rule says it is. -/
def Obligations.NotePropertiesFollow : Prop :=
  (∀ (v : Variant) (g : Word) (n : Nat) (y : Synth),
    (advance v g n y).2.samplesRemaining.toNat = y.samplesRemaining.toNat - min n y.samplesRemaining.toNat) ∧
  (∀ (v : Variant) (g : Word) (n : Nat) (y : Synth), ∀ x ∈ (advance v g n y).1, |x| ≤ 32767) ∧
  (∀ (v : Variant) (g f vol : Word) (n : Nat),
    (advance v g n (triggered v f vol)).2.samplesRemaining ≠ 0 ↔ n < noteLen v) ∧
  (∀ (v : Variant) (g f vol : Word), (sampleStep v g (triggered v f vol)).1 = 0) ∧
  ((∀ age : Nat, age < 200 → envSimple age (BitVec.ofNat 32 (5292 - age)) < 2 ^ 30) ∧
    envSimple 200 (BitVec.ofNat 32 (5292 - 200)) = 2 ^ 30 ∧
    (∀ (age : Nat) (env : Word), age < 100 → envFm age env < 2 ^ 30) ∧
    ∀ g f vol : Word, envFm 100 (advance .fm g 100 (triggered .fm f vol)).2.env = 2 ^ 30) ∧
  (∀ (v : Variant) (g : Word) (n : Nat) (y : Synth), y.samplesRemaining = 0 →
    advance v g n y = (List.replicate n 0, y))

/-- The decay register (R21, R75): ENV never grows in any step; no SIMPLE step and no attack-segment FM step writes it. -/
def Obligations.DecayRegisterNeverGrows : Prop :=
  ∀ (v : Variant) (g : Word) (n : Nat) (y : Synth),
    (advance v g n y).2.env.toNat ≤ y.env.toNat ∧
      (v = .simple → (advance v g n y).2.env = y.env) ∧
      (v = .fm → y.samplesRemaining.toNat ≤ 11025 → 10925 + n ≤ y.samplesRemaining.toNat →
        (advance v g n y).2.env = y.env)

/-- What the datapath does not read (R24, R73): MASTER_GAIN in FM; ENV and MOD_PHASE in SIMPLE. -/
def Obligations.UnreadRegistersDoNotReachTheSamples : Prop :=
  (∀ (g g' : Word) (n : Nat) (y : Synth), advance .fm g n y = advance .fm g' n y) ∧
    ∀ (g e p : Word) (n : Nat) (y : Synth),
      (advance .simple g n { y with env := e, modPhase := p }).1 = (advance .simple g n y).1

/-! ## Errors (60_exceptions.md) -/

/-- R112: `raise Error(c, info)` writes ERR_CAUSE, ERR_INFO and the sticky bit of the code, by the table of R111; beside them
only the model's error count of R114 changes. -/
def Obligations.RaisingAnErrorIsItsRecord : Prop :=
  ∀ (s : State) (c : ErrCode) (info : Word),
    s.raiseError c info = { s with
      errCause := c
      errInfo := info
      errCount := s.errCount + 1
      sticky :=
        { cmdErr := s.sticky.cmdErr || (decide (1 ≤ c.code) && decide (c.code ≤ 5))
          initErr := s.sticky.initErr || c.code == 6
          underrun := s.sticky.underrun || c.code == 7
          busErr := s.sticky.busErr || c.code == 8 } }

/-- At most one error a step, and the error registers move only with it (R28, R29, R115): a step that is no reset either
records nothing and sets no sticky bit, or records exactly one error.
The error count is the model's own (log 10). -/
def Obligations.OneStepOneError : Prop :=
  ∀ s t : State, step s = .next t → ¬ s.NextEvent .reset →
    (t.errCount = s.errCount ∧ t.errCause = s.errCause ∧ t.errInfo = s.errInfo ∧ ∃ w, t.sticky = s.sticky.w1c w) ∨
    (t.errCount = s.errCount + 1 ∧ t.errCause ≠ .none ∧ t.sticky = s.sticky.set t.errCause)

/-- No error stops the block (R113, R114): from a state that meets the invariant every step ends in a next state.
The step of an empty schedule is the model's own (log 7). -/
def Obligations.NoStepStopsTheBlock : Prop := ∀ s : State, s.Inv → s.StepsOn

/-! ## Bus transactions (20_memory.md, 42_bus_and_output.md) -/

/-- R45: a transaction that is not an aligned 32-bit access changes nothing but the record of error 8, and the host gets an
error response with no data.
The error count (log 10) and the kept bus answer (log 9) are the model's own. -/
def Obligations.RejectedTransactionOnlyRecords : Prop :=
  ∀ (s : State) (a : Offset) (n : AccessSize) (w : Word), (n ≠ .word ∨ a.toNat % 4 ≠ 0) →
    let t : State := { s with
      errCause := .busAccess, errInfo := BitVec.ofNat 32 a.toNat, sticky := { s.sticky with busErr := true },
      errCount := s.errCount + 1, busResp := .error }
    hostStep (.read a n) s = .next t ∧ hostStep (.write a n w) s = .next t

/-- R47: no admitted read has a side effect and reads are idempotent, but for FILL_TIME before the first fill pass, a fresh
draw at each read; and the effects of admitted writes, of which all but CMD's are idempotent: a second START is not the first.
The numbering of draws (log 4) and the kept bus answer (log 9) are the model's own. -/
def Obligations.AccessEffectsAndIdempotence : Prop :=
  (∀ (s : State) (a : Offset), a.toNat % 4 = 0 → a ≠ 0x40#16 ∨ s.fillTimeHeld = true →
    ∃ v, let t : State := { s with busResp := .data v }
      hostStep (.read a .word) s = .next t ∧ hostStep (.read a .word) t = .next t) ∧
  (∀ s : State, s.fillTimeHeld = false → hostStep (.read 0x40#16 .word) s =
    .next { s with busResp := .data (Config.freeWord s.draws), draws := s.draws + 1 }) ∧
  (∀ (s : State) (w : Word),
    hostStep (.write 0x4#16 .word w) s = answer .done (execWord w s) ∧
    hostStep (.write 0x8#16 .word w) s = .next { s with sticky := s.sticky.w1c w, busResp := .done } ∧
    hostStep (.write 0x14#16 .word w) s =
      .next { s with freqArg := BitVec.ofNat 32 (min w.toNat 0x56220000), busResp := .done } ∧
    hostStep (.write 0x18#16 .word w) s =
      .next { s with volArg := BitVec.ofNat 32 (min w.toNat 0x8000), busResp := .done } ∧
    hostStep (.write 0x1C#16 .word w) s =
      .next { s with masterGain := BitVec.ofNat 32 (min w.toNat 0x8000), busResp := .done }) ∧
  (∀ (s : State) (a : Offset) (w : Word), a.toNat % 4 = 0 → a ≠ 0x4#16 → a ≠ 0x8#16 → a ≠ 0x14#16 → a ≠ 0x18#16 →
    a ≠ 0x1C#16 → hostStep (.write a .word w) s = .next { s with busResp := .done }) ∧
  (∀ (s t : State) (a : Offset) (w : Word), a.toNat % 4 = 0 → a ≠ 0x4#16 → hostStep (.write a .word w) s = .next t →
    hostStep (.write a .word w) t = .next t) ∧
  (∃ s t u : State, hostStep (.write 0x4#16 .word 0x30000000#32) s = .next t ∧
    hostStep (.write 0x4#16 .word 0x30000000#32) t = .next u ∧ u.errCause ≠ t.errCause)

/-- The register map's read values (R33, R94), for every register: each read returns the value and changes nothing but the bus
answer, and a read of FILL_TIME before the first fill pass also takes a draw.
The kept bus answer (log 9) and the numbering of draws (log 4) are the model's own. -/
def Obligations.EachRegisterReadsItsValue : Prop :=
  ∀ s : State,
    let reads (a : Offset) (v : Word) : Prop := hostStep (.read a .word) s = .next { s with busResp := .data v }
    reads 0x000#16 0x50414343#32 ∧ reads 0x004#16 0 ∧
      reads 0x008#16 (0#25 ++ BitVec.ofBool s.sticky.busErr ++ BitVec.ofBool s.sticky.cmdErr ++
        BitVec.ofBool s.sticky.underrun ++ BitVec.ofBool s.sticky.initErr ++ 0#1 ++
        BitVec.ofBool (s.synth.samplesRemaining != 0) ++ BitVec.ofBool s.running) ∧
      reads 0x00C#16 (BitVec.ofNat 32 s.errCause.code) ∧
      reads 0x010#16 s.errInfo ∧ reads 0x014#16 s.freqArg ∧ reads 0x018#16 s.volArg ∧ reads 0x01C#16 s.masterGain ∧
      reads 0x020#16 s.synth.freq ∧ reads 0x024#16 s.synth.volume ∧ reads 0x028#16 s.synth.phase ∧
      (s.cfg.variant = .fm → reads 0x02C#16 s.synth.modPhase) ∧ (s.cfg.variant = .simple → reads 0x02C#16 0) ∧
      reads 0x030#16 s.synth.samplesRemaining ∧ reads 0x034#16 s.synth.env ∧
      reads 0x038#16 (0#8 ++ BitVec.ofNat 16 s.cfg.bufFrames.toNat ++ BitVec.ofNat 4 s.cfg.numBuf.toNat ++ 0#3 ++
        BitVec.ofBool (s.cfg.variant == .fm)) ∧
      reads 0x03C#16 s.fillCount ∧
      (s.fillTimeHeld = true → reads 0x040#16 s.fillTime) ∧
      (s.fillTimeHeld = false → hostStep (.read 0x040#16 .word) s =
        .next { s with busResp := .data (Config.freeWord s.draws), draws := s.draws + 1 })

/-- What a STATUS read returns, bit by bit (R27, R94). -/
def Obligations.StatusReadsItsFields : Prop :=
  ∀ s : State, ∃ v, hostStep (.read 0x008#16 .word) s = .next { s with busResp := .data v } ∧
    v.getLsbD 0 = s.running ∧ v.getLsbD 1 = (s.synth.samplesRemaining != 0) ∧ v.getLsbD 2 = false ∧
    v.getLsbD 3 = s.sticky.initErr ∧ v.getLsbD 4 = s.sticky.underrun ∧ v.getLsbD 5 = s.sticky.cmdErr ∧
    v.getLsbD 6 = s.sticky.busErr ∧ ∀ i, 7 ≤ i → v.getLsbD i = false

/-- A write to STATUS clears each sticky bit whose bit of w is 1 and leaves the rest unchanged, RUNNING, SOUNDING, ERR_CAUSE and
ERR_INFO among it (R27, R28, R117). -/
def Obligations.StatusWriteClearsTheChosenBits : Prop :=
  ∀ (s : State) (w : Word), ∃ k, hostStep (.write 0x008#16 .word w) s = .next { s with sticky := k, busResp := .done } ∧
    (k.initErr = true ↔ s.sticky.initErr = true ∧ w.getLsbD 3 = false) ∧
    (k.underrun = true ↔ s.sticky.underrun = true ∧ w.getLsbD 4 = false) ∧
    (k.cmdErr = true ↔ s.sticky.cmdErr = true ∧ w.getLsbD 5 = false) ∧
    (k.busErr = true ↔ s.sticky.busErr = true ∧ w.getLsbD 6 = false)

/-- R30: the fields of CONFIG, that it is constant for a build, and that it is read-only. -/
def Obligations.ConfigReportsTheBuild : Prop :=
  ∀ s : State, ∃ v, hostStep (.read 0x038#16 .word) s = .next { s with busResp := .data v } ∧
    ((v.extractLsb' 0 1 = 0 ↔ s.cfg.variant = .simple) ∧ (v.extractLsb' 0 1 = 1 ↔ s.cfg.variant = .fm)) ∧
    v.extractLsb' 1 3 = 0 ∧ (v.extractLsb' 4 4).toNat = s.cfg.numBuf.toNat ∧
    (v.extractLsb' 8 16).toNat = s.cfg.bufFrames.toNat ∧ v.extractLsb' 24 8 = 0 ∧
    (s.cfg = ⟨.fm, .three, .f1024⟩ → v = 0x00040031#32) ∧
    (∀ s' : State, s'.cfg = s.cfg → hostStep (.read 0x038#16 .word) s' = .next { s' with busResp := .data v }) ∧
    ∀ w, hostStep (.write 0x038#16 .word w) s = .next { s with busResp := .done }

/-- Write-any-read-legal (R22, R23, R24): after a write of w, FREQ_ARG reads min(w, FREQ_MAX), VOL_ARG and MASTER_GAIN read
min(w, VOL_ONE). -/
def Obligations.ArgumentWritesReadBackClamped : Prop :=
  ∀ (s t : State) (w : Word),
    (hostStep (.write 0x014#16 .word w) s = .next t → t.readValue 0x014#16 = if w.toNat ≤ 0x56220000 then w else 0x56220000#32) ∧
    (hostStep (.write 0x018#16 .word w) s = .next t → t.readValue 0x018#16 = if w.toNat ≤ 0x8000 then w else 0x8000#32) ∧
    (hostStep (.write 0x01C#16 .word w) s = .next t → t.readValue 0x01C#16 = if w.toNat ≤ 0x8000 then w else 0x8000#32)

/-- R48: an admitted read at an unmapped offset returns 0 and an admitted write there is ignored, with no error; the buffer window
beyond its end is unmapped. -/
def Obligations.UnmappedOffsetsReadZeroAndIgnoreWrites : Prop :=
  ∀ (s : State) (a : Offset) (w : Word), a.toNat % 4 = 0 → 0x44 ≤ a.toNat →
    (a.toNat < 0x1000 ∨ 0x1000 + 2 * s.cfg.numBuf.toNat * s.cfg.bufFrames.toNat ≤ a.toNat) →
    hostStep (.read a .word) s = .next { s with busResp := .data 0 } ∧
      hostStep (.write a .word w) s = .next { s with busResp := .done }

/-- R44: where a frame's bytes lie, what a 32-bit read of the window returns, and that its two frames belong to one buffer. -/
def Obligations.WindowReadReturnsTwoFrames : Prop :=
  ∀ s : State,
    let bf := s.cfg.bufFrames.toNat
    let ram (f : Nat) : Sample := s.frame (f / bf) (f % bf)
    (∀ b k, let a := 0x1000 + 2 * (b * bf + k)
      s.mem.read a = (s.frame b k).extractLsb' 0 8 ∧ s.mem.read (a + 1) = (s.frame b k).extractLsb' 8 8) ∧
    (∀ j, j < s.cfg.numBuf.toNat * bf / 2 →
      hostStep (.read (BitVec.ofNat 16 (0x1000 + 4 * j)) .word) s =
        .next { s with busResp := .data (ram (2 * j + 1) ++ ram (2 * j) : BitVec (16 + 16)) } ∧
      (2 * j + 1) / bf = 2 * j / bf)

/-- The bus window is little-endian over the buffer RAM (R42): byte i of the word read at a is the byte at a + i. -/
def Obligations.WindowWordsAreLittleEndian : Prop :=
  ∀ (s : State) (a : Offset), a.toNat % 4 = 0 → 0x1000 ≤ a.toNat →
    a.toNat < 0x1000 + 2 * s.cfg.numBuf.toNat * s.cfg.bufFrames.toNat →
    ∃ v : Word, hostStep (.read a .word) s = .next { s with busResp := .data v } ∧
      ∀ i, i < 4 → v.extractLsb' (8 * i) 8 = s.mem.read (a.toNat + i)

/-- The host cannot write samples or SynthState but through a command (R34, R33): a write anywhere else leaves the buffer RAM,
the queues, SynthState, the trace and the device state alone. -/
def Obligations.HostWritesReachTheBuffersOnlyByCommand : Prop :=
  ∀ (s t : State) (a : Offset) (n : AccessSize) (w : Word), a ≠ 0x4#16 → hostStep (.write a n w) s = .next t →
    s.SameBytes t ∧ t.synth = s.synth ∧ t.pq = s.pq ∧ t.fq = s.fq ∧ t.running = s.running ∧ t.trace = s.trace ∧
      t.fillCount = s.fillCount

/-- The host's transactions take effect in order (R53): a write of w to FREQ_ARG followed by a write of TRIGGER to CMD triggers
with min(w, FREQ_MAX).
The order of events is the schedule's (log 5). -/
def Obligations.TriggerSeesTheFrequencyWrittenBefore : Prop :=
  ∀ (s : State) (w : Word) (rest : List Event),
    s.schedule = .host (.write 0x014#16 .word w) :: cmdWrite 0x10000000#32 :: rest →
    ∃ t, Sys2Proof.core.run 2 s = .next t ∧ t.synth.freq.toNat = min w.toNat 0x56220000

/-- R67: the pseudo-instructions, their conversions of a literal, the worked example, and what TRIG and CLRERR come to when their
events are the next ones: the note they name, clamped, and no sticky bit set. The order of events is the schedule's (log 5), and what
a conversion of 2^32 or more stands for is the model's own (log 22). -/
def Obligations.PseudoInstructionsExpand : Prop :=
  (∀ f v : Decimal, (Line.trig f v).events =
      (Line.wr 0x014#16 f.freq).events ++ (Line.wr 0x018#16 v.vol).events ++ (Line.command .trigger).events) ∧
  (∀ v : Decimal, (Line.setVol v).events = (Line.wr 0x018#16 v.vol).events ++ (Line.command .setVolume).events) ∧
  (∀ g : Decimal, (Line.gain g).events = (Line.wr 0x01C#16 g.vol).events) ∧
  Line.clrErr.events = (Line.wr 0x008#16 0x00000078#32).events ∧
  (∀ d : Decimal, rha (d.num * 2 ^ 16 : Nat) (10 ^ d.places) < 2 ^ 32 →
    (d.freq.toNat : Int) = rha (d.num * 2 ^ 16 : Nat) (10 ^ d.places)) ∧
  (∀ d : Decimal, d.num ≤ 10 ^ d.places →
    (d.vol.toNat : Int) = rha (d.num * 2 ^ 15 : Nat) (10 ^ d.places) ∧ d.vol.toNat ≤ 0x8000) ∧
  (Decimal.freq ⟨2200, 1⟩ = 0x00DC0000#32 ∧ Decimal.vol ⟨4, 1⟩ = 0x3333#32) ∧
  (∀ (s : State) (f v : Decimal) (rest : List Event), s.schedule = (Line.trig f v).events ++ rest →
    ∃ t, Sys2Proof.core.run 3 s = .next t ∧ t.schedule = rest ∧
      t.synth.freq.toNat = min f.freq.toNat 0x56220000 ∧ t.synth.volume.toNat = min v.vol.toNat 0x8000 ∧
      t.synth.samplesRemaining.toNat = noteLen s.cfg.variant) ∧
  (∀ (s : State) (rest : List Event), s.schedule = Line.clrErr.events ++ rest →
    ∃ t, step s = .next t ∧ t.schedule = rest ∧ t.sticky = ⟨false, false, false, false⟩ ∧ t.errCause = s.errCause)

/-! ## The output interface (42_bus_and_output.md) -/

/-- R98: the sink step CONSUME, its whole next state. -/
def Obligations.ConsumeEmitsTheHeadBuffer : Prop :=
  ∀ (s : State) (b : Nat) (rest : List Nat), s.running = true → s.pq = b :: rest → b < s.cfg.numBuf.toNat →
    ∃ frames, perform .sink s = .next { s with
        pq := rest, fq := s.fq ++ [b], trace := s.trace ++ [.play b frames] } ∧
      frames.length = s.cfg.bufFrames.toNat ∧ ∀ k, k < s.cfg.bufFrames.toNat → frames[k]? = some (s.frame b k)

/-- R99: the sink step UNDERRUN, its whole next state.
The error count is the model's own (log 10). -/
def Obligations.UnderrunEmitsAGapAndRecords : Prop :=
  ∀ s : State, s.running = true → s.pq = [] →
    perform .sink s = .next { s with
      trace := s.trace ++ [.gap], errCause := .underrun, errInfo := 0,
      sticky := { s.sticky with underrun := true }, errCount := s.errCount + 1 }

/-- R100: the fill-engine step FILL: it completes; SynthState has advanced by BUF_FRAMES steps; the buffer at the head of FQ holds
their samples and is enqueued; FILL_COUNT and FILL_TIME are written; every byte outside the buffer and every other field is
unchanged.
The numbering of draws is the model's own (log 4). -/
def Obligations.FillRefillsTheOldestRequest : Prop :=
  ∀ (s : State) (b : Nat) (rest : List Nat), s.running = true → s.fq = b :: rest → b < s.cfg.numBuf.toNat →
    let bf := s.cfg.bufFrames.toNat
    let adv := advance s.cfg.variant s.masterGain bf s.synth
    ∃ t, perform .fill s = .next t ∧
      t = { s with
        synth := adv.2
        mem := t.mem
        pq := s.pq ++ [b]
        fq := rest
        fillCount := s.fillCount + 1
        fillTime := Config.freeWord s.draws
        fillTimeHeld := true
        draws := s.draws + 1 } ∧
      (∀ k, k < bf → t.frame b k = u16 (adv.1.getD k 0)) ∧
      s.SameBytesOutside t (frameAddr s.cfg b 0) (frameAddr s.cfg b 0 + 2 * bf)

/-- A stopped device: neither the sink nor the fill engine takes a step (R55, R110, R124), after SHUTDOWN in particular.
That a disabled agent's turn is skipped is the model's form of it (log 6). -/
def Obligations.StoppedAgentsTakeNoStep : Prop :=
  (∀ s : State, s.running = false → perform .sink s = .next s ∧ perform .fill s = .next s) ∧
    ∀ s t : State, exec .shutdown s = .next t → perform .sink t = .next t ∧ perform .fill t = .next t

/-- A running block never ends, and under weak fairness every fill request is served (R104, R131).
From every running state that meets the invariant the sink can step, and each of its steps is one event of the trace.
In every weakly fair run, whatever the order of events, each buffer in FQ comes to the head and is taken by a fill pass, and the sink
steps again and again, until the device is stopped.
Every run of the machine's own step takes the events it was given one by one and is weakly fair: the wait of the idle rule is
finite (log 7). The schedule is the model's own (log 5). -/
def Obligations.RunningBlockNeverEndsAndServesRequests : Prop :=
  (∀ s : State, s.Inv → s.running = true →
    ∃ t e, perform .sink s = .next t ∧ t.trace = s.trace ++ [e] ∧ t.running = true) ∧
  (∀ (ev : Nat → Event) (run : Nat → State), IsEventRun ev run → WeaklyFair ev run →
    (∀ n b, b ∈ (run n).fq →
      ∃ m, n ≤ m ∧ ((run m).running = false ∨ (ev m = .fill ∧ (run m).fq.head? = some b))) ∧
    ∀ n, ∃ m, n ≤ m ∧ ((run m).running = false ∨ ev m = .sink)) ∧
  (∀ run : Nat → State, IsStepRun run →
    (∀ n k, (run (n + k)).schedule = (run n).schedule.drop k) ∧
    ∀ (a : Agent) (n : Nat), ∃ m, n ≤ m ∧ (¬ (run m).Enabled a ∨ (run m).Takes a))

/-- No torn pass (R52): a fill pass after a TRIGGER renders the new note from its first sample, with the arguments the TRIGGER
took, whatever note was sounding before. -/
def Obligations.FillAfterTriggerRendersTheNewNote : Prop :=
  ∀ (s t u : State) (b : Nat) (rest : List Nat), s.running = true → s.fq = b :: rest → b < s.cfg.numBuf.toNat →
    exec .trigger s = .next t → perform .fill t = .next u →
    ∀ k, k < s.cfg.bufFrames.toNat → u.frame b k =
      u16 ((advance s.cfg.variant s.masterGain s.cfg.bufFrames.toNat
        { freq := s.freqArg, volume := s.volArg, phase := 0, modPhase := 0,
          samplesRemaining := BitVec.ofNat 32 (noteLen s.cfg.variant), env := 0x40000000#32 }).1.getD k 0)

/-! ## Whole-machine rules -/

/-- The build never changes (R3, R126). -/
def Obligations.NoStepWritesTheBuild : Prop := ∀ s t : State, step s = .next t → t.cfg = s.cfg

/-- Only bus writes and reset change the argument registers (R22, R23, R24). -/
def Obligations.ArgumentsChangeOnlyByTheirWriteOrReset : Prop :=
  ∀ s t : State, step s = .next t →
    (t.freqArg ≠ s.freqArg → s.NextEvent .reset ∨ ∃ e w, s.NextEvent e ∧ e.Writes .freqArg w) ∧
    (t.volArg ≠ s.volArg → s.NextEvent .reset ∨ ∃ e w, s.NextEvent e ∧ e.Writes .volArg w) ∧
    (t.masterGain ≠ s.masterGain → s.NextEvent .reset ∨ ∃ e w, s.NextEvent e ∧ e.Writes .masterGain w)

/-- RUNNING is written by START and SHUTDOWN, and cleared by reset, and by nothing else (R27, R37). -/
def Obligations.RunningChangesOnlyByStartShutdownOrReset : Prop :=
  ∀ s t : State, step s = .next t →
    (s.running = false → t.running = true → s.sinkReady = true ∧ ∃ e, s.NextEvent e ∧ e.Commands .start) ∧
    (s.running = true → t.running = false →
      s.NextEvent .reset ∨ ∃ e, s.NextEvent e ∧ e.Commands .shutdown)

/-- FREQ and VOLUME change only by the commands that write them and by reset (R16, R17), and to the values those give. -/
def Obligations.FreqAndVolumeChangeOnlyByTheirCommands : Prop :=
  ∀ s t : State, step s = .next t →
    (t.synth.freq ≠ s.synth.freq →
      (s.NextEvent .reset ∧ t.synth.freq = 0) ∨
      ∃ e, s.NextEvent e ∧ ((e.Commands .trigger ∧ t.synth.freq = s.freqArg) ∨
        (e.Commands .shutdown ∧ t.synth.freq = 0))) ∧
    (t.synth.volume ≠ s.synth.volume →
      (s.NextEvent .reset ∧ t.synth.volume = 0) ∨
      ∃ e, s.NextEvent e ∧ (((e.Commands .trigger ∨ e.Commands .setVolume) ∧ t.synth.volume = s.volArg) ∨
        (e.Commands .shutdown ∧ t.synth.volume = 0)))

/-- Only a W1C write or reset clears a sticky bit (R27): of any of the four, in any step. -/
def Obligations.StickyBitsClearOnlyByW1cOrReset : Prop :=
  ∀ s t : State, step s = .next t →
    let clearedBy (i : Nat) : Prop :=
      s.NextEvent .reset ∨ ∃ e w, s.NextEvent e ∧ e.Writes .status w ∧ w.getLsbD i = true
    (s.sticky.initErr = true → t.sticky.initErr = false → clearedBy 3) ∧
    (s.sticky.underrun = true → t.sticky.underrun = false → clearedBy 4) ∧
    (s.sticky.cmdErr = true → t.sticky.cmdErr = false → clearedBy 5) ∧
    (s.sticky.busErr = true → t.sticky.busErr = false → clearedBy 6)

/-- FILL_COUNT counts priming and refill passes only (R31): START adds NUM_BUF, a fill pass adds 1, reset clears it, nothing else
changes it, GENERATE and SHUTDOWN included.
The step of an empty schedule is the model's own (log 7). -/
def Obligations.FillCountCountsPasses : Prop :=
  ∀ s t : State, step s = .next t → t.fillCount ≠ s.fillCount →
    (s.NextEvent .reset ∧ t.fillCount = 0) ∨
    (∃ e, s.NextEvent e ∧ e.Commands .start ∧ t.fillCount = s.fillCount + BitVec.ofNat 32 s.cfg.numBuf.toNat) ∨
    ((s.NextEvent .fill ∨ s.schedule = []) ∧ s.fq ≠ [] ∧ t.fillCount = s.fillCount + 1)

/-- Nothing but reset removes an event from the trace, and a step appends at most one (R102).
The step of an empty schedule is the model's own (log 7). -/
def Obligations.TraceGrowsByAtMostOneEvent : Prop :=
  ∀ s t : State, step s = .next t → ¬ s.NextEvent .reset →
    t.trace = s.trace ∨ ∃ e, t.trace = s.trace ++ [e] ∧ s.running = true ∧ (s.NextEvent .sink ∨ s.schedule = [])

/-! ## Invariants -/

/-- Reset puts every piece of state of R38 into its value, in any state of any build, and keeps the build (R126), and `State.reset` has
those values; after it every step is silent until a TRIGGER, which overwrites FREQ and VOLUME. Among the reset values are also the
error count 0 (log 10), and FILL_TIME reads as the draw that the model's own numbering gives (log 4). -/
def Obligations.ResetGivesEveryPieceItsValue : Prop :=
  (∀ s : State, ∃ t, perform .reset s = .next t ∧ t.HasResetValues ∧ t.cfg = s.cfg) ∧
    State.reset.HasResetValues ∧
    ∀ s : State, s.HasResetValues →
      (∀ n, advance s.cfg.variant s.masterGain n s.synth = (List.replicate n 0, s.synth)) ∧
      ∃ t, exec .trigger s = .next t ∧ t.synth.freq = s.freqArg ∧ t.synth.volume = s.volArg

/-- The invariant holds right after reset, for every build. -/
def Obligations.ResetMeetsTheInvariant : Prop :=
  State.reset.Inv ∧ ∀ (cfg : Config) (lvl : Bool) (es : List Event) (n : Nat), (State.resetWith cfg lvl es n).Inv

/-- Every step keeps the invariant: the legal values of every register (R16 to R24), the queue invariant (R35), the canonical
buffer RAM with nothing outside the window and no frame at −32768 (R34), full-sized Play events (R101), and the error record.
The error count is the model's own (log 10). -/
def Obligations.EveryStepKeepsTheInvariant : Prop :=
  ∀ s t : State, s.Inv → step s = .next t → t.Inv

/-- Playback is the note in generation order (R103): after a successful START, while nothing disturbs the note and no underrun
occurs, the concatenated frames of the Play events are a prefix of the samples that ADVANCE gives from the SynthState START
found, and the buffers come in the cyclic order 0, 1, …, NUM_BUF−1, 0, … Beside R103's premises it excludes resets and writes to
MASTER_GAIN (log 21). -/
def Obligations.UndisturbedPlaybackIsTheNoteInOrder : Prop :=
  ∀ (s s₁ t : State) (es : List Event) (new : List OutEvent), s.Inv → s.running = false → s.sinkReady = true →
    exec .start s = .next s₁ → (∀ e ∈ es, e.Undisturbing) →
    Sys2Proof.core.run es.length { s₁ with schedule := es } = .next t →
    t.trace = s₁.trace ++ new → GapFree new →
    (∃ n, playedFrames new <+: (advance s.cfg.variant s.masterGain n s.synth).1.map u16) ∧
      ∀ i b frames, new[i]? = some (.play b frames) → b = i % s.cfg.numBuf.toNat
end

