-- ==== Sys2Proof/Laws/Datapath.lean ====
section
/-! SUPPORT. The laws of one step and of ADVANCE(N) (40_datapath.md rules R81, R82): a silent step, a sounding step of each
variant, and ADVANCE cut into parts. -/

namespace Sys2Proof.Machine

/-! ## One step -/

/-- A silent step returns 0 and changes nothing (R81). -/
theorem sampleStep_silent (v : Variant) (g : Word) (y : Synth) (h : y.samplesRemaining = 0) :
    sampleStep v g y = (0, y) := if_pos h

/-- A sounding step of SIMPLE (R81). -/
theorem sampleStep_simple (g : Word) (y : Synth) (h : y.samplesRemaining ≠ 0) :
    sampleStep .simple g y = stepSimple g y := if_neg h

/-- A sounding step of FM (R81). -/
theorem sampleStep_fm (g : Word) (y : Synth) (h : y.samplesRemaining ≠ 0) : sampleStep .fm g y = stepFm y := if_neg h

/-- No step writes FREQ or VOLUME (R16, R17). -/
theorem sampleStep_keeps (v : Variant) (g : Word) (y : Synth) :
    (sampleStep v g y).2.freq = y.freq ∧ (sampleStep v g y).2.volume = y.volume := by
  unfold sampleStep
  split
  · exact ⟨rfl, rfl⟩
  · cases v <;> exact ⟨rfl, rfl⟩

/-! ## ADVANCE(N) -/

@[simp] theorem advance_zero (v : Variant) (g : Word) (y : Synth) : advance v g 0 y = ([], y) := rfl

theorem advance_succ (v : Variant) (g : Word) (n : Nat) (y : Synth) :
    advance v g (n + 1) y =
      ((sampleStep v g y).1 :: (advance v g n (sampleStep v g y).2).1, (advance v g n (sampleStep v g y).2).2) := rfl

/-- ADVANCE(N) returns N samples (R82). -/
@[simp] theorem advance_length (v : Variant) (g : Word) (n : Nat) (y : Synth) : (advance v g n y).1.length = n := by
  induction n generalizing y with
  | zero => rfl
  | succ n ih => simp [advance_succ, ih]

/-- ADVANCE(M + N) is ADVANCE(M) and then ADVANCE(N) (R82). -/
theorem advance_add (v : Variant) (g : Word) (m n : Nat) (y : Synth) :
    advance v g (m + n) y =
      ((advance v g m y).1 ++ (advance v g n (advance v g m y).2).1, (advance v g n (advance v g m y).2).2) := by
  induction m generalizing y with
  | zero => simp
  | succ m ih =>
    have e : m + 1 + n = m + n + 1 := by omega
    rw [e, advance_succ, advance_succ, ih]
    simp

/-- Sample k of ADVANCE is that of the step taken from the SynthState that ADVANCE(k) leaves (R82). -/
theorem advance_getElem? (v : Variant) (g : Word) (n k : Nat) (y : Synth) (h : k < n) :
    (advance v g n y).1[k]? = some (sampleStep v g (advance v g k y).2).1 := by
  obtain ⟨j, rfl⟩ : ∃ j, n = k + (j + 1) := ⟨n - k - 1, by omega⟩
  rw [advance_add]
  simp [advance_succ]

/-- With no note sounding, ADVANCE is silent and changes nothing (R82, R83). -/
theorem advance_silent (v : Variant) (g : Word) (n : Nat) (y : Synth) (h : y.samplesRemaining = 0) :
    advance v g n y = (List.replicate n 0, y) := by
  induction n with
  | zero => rfl
  | succ n ih =>
    rw [advance_succ, sampleStep_silent _ _ _ h]
    simp [ih, List.replicate_succ]

/-- What every step keeps, ADVANCE keeps: the induction over steps, once. -/
theorem advance_invariant (v : Variant) (g : Word) (P : Synth → Prop)
    (hstep : ∀ y, P y → P (sampleStep v g y).2) (n : Nat) (y : Synth) (h : P y) : P (advance v g n y).2 := by
  induction n generalizing y with
  | zero => exact h
  | succ n ih => exact ih _ (hstep y h)

/-- What holds of the sample of every step from a state that keeps P holds of every sample of ADVANCE. -/
theorem advance_samples (v : Variant) (g : Word) (P : Synth → Prop) (Q : Int → Prop)
    (hstep : ∀ y, P y → P (sampleStep v g y).2) (hsample : ∀ y, P y → Q (sampleStep v g y).1) (n : Nat) (y : Synth)
    (h : P y) : ∀ x ∈ (advance v g n y).1, Q x := by
  induction n generalizing y with
  | zero => simp
  | succ n ih =>
    intro x hx
    rw [advance_succ] at hx
    rcases List.mem_cons.1 hx with rfl | hx
    · exact hsample y h
    · exact ih _ (hstep y h) x hx

/-- The clamp's range (R80). -/
theorem clampSample_range (x : Int) : -32767 ≤ clampSample x ∧ clampSample x ≤ 32767 := by
  unfold clampSample clamp s16Max
  omega

end Sys2Proof.Machine
end

