-- ==== Sys2Proof/Laws/Arith.lean ====
section
/-! SUPPORT. The arithmetic of the datapath: the rounding primitives (00_scope.md rule R9), the sine ROM's range (43_sine_rom.md),
and the register arithmetic of one step. -/

namespace Sys2Proof.Machine

/-! ## Rounding -/

/-- On a natural number `rha` is a quotient of naturals. -/
theorem rha_natCast (n d : Nat) (hd : 0 < d) : rha n d = ((2 * n + d) / (2 * d) : Nat) := by
  rcases Nat.eq_zero_or_pos n with rfl | h
  · have e : (2 * 0 + d) / (2 * d) = 0 := Nat.div_eq_of_lt (by omega)
    rw [e]
    simp [rha]
  · simp [rha, Int.sign_natCast_of_ne_zero (by omega : n ≠ 0)]

/-- `rha` is odd (R107 uses it). -/
theorem rha_neg (n : Int) (d : Nat) : rha (-n) d = -rha n d := by simp [rha]

/-- A quotient rounded to nearest, in products. -/
theorem rounded_quotient (n d : Nat) (hd : 0 < d) :
    2 * d * ((2 * n + d) / (2 * d)) ≤ 2 * n + d ∧ 2 * n + d < 2 * d * ((2 * n + d) / (2 * d)) + 2 * d := by
  have := Nat.div_add_mod (2 * n + d) (2 * d)
  have := Nat.mod_lt (2 * n + d) (by omega : 0 < 2 * d)
  omega

/-- A bound on the dividend bounds the rounded quotient. -/
theorem abs_rha_le (n : Int) (d b : Nat) (hd : 0 < d) (h : |n| ≤ d * b) : |rha n d| ≤ b := by
  have key : ∀ k : Nat, (k : Int) ≤ d * b → |rha k d| ≤ b := by
    intro k hk
    rw [rha_natCast k d hd, Nat.abs_cast]
    have hk' : k ≤ d * b := by exact_mod_cast hk
    have : (2 * k + d) / (2 * d) ≤ b := by
      apply Nat.le_of_lt_succ
      rw [Nat.div_lt_iff_lt_mul (by omega)]
      have : (b + 1) * (2 * d) = 2 * (d * b) + 2 * d := by ring
      show 2 * k + d < (b + 1) * (2 * d)
      omega
    exact_mod_cast this
  rcases Int.eq_nat_or_neg n with ⟨k, rfl | rfl⟩
  · rw [Nat.abs_cast] at h
    exact key k h
  · rw [abs_neg, Nat.abs_cast] at h
    rw [rha_neg, abs_neg]
    exact key k h

/-- Inside its range the output clamp does nothing (R80). -/
theorem clampSample_of_abs_le (x : Int) (h : |x| ≤ 32767) : clampSample x = x := by
  rw [abs_le] at h
  unfold clampSample clamp s16Max
  omega

/-! ## The sine ROM -/

theorem sineRow_le (r : Nat) : ∀ x ∈ sineRow r, x ≤ 32767 := by
  unfold sineRow
  split <;> simp

theorem sineQuarter_le (k : Nat) : sineQuarter k ≤ 32767 := by
  unfold sineQuarter
  rw [List.getD_eq_getElem?_getD]
  rcases h : (sineRow (k / 16))[k % 16]? with _ | x
  · simp
  · exact sineRow_le _ _ (List.mem_of_getElem? h)

/-- Every entry is in [−32767, 32767] (R106). -/
theorem abs_sine_le (p : Word) : |sine p| ≤ 32767 := by
  unfold sine sineRom
  split
  · have := sineQuarter_le (p.toNat / 2 ^ 22)
    rw [Nat.abs_cast]
    omega
  split
  · have := sineQuarter_le (512 - p.toNat / 2 ^ 22)
    rw [Nat.abs_cast]
    omega
  split
  · have := sineQuarter_le (p.toNat / 2 ^ 22 - 512)
    rw [abs_neg, Nat.abs_cast]
    omega
  · have := sineQuarter_le (1024 - p.toNat / 2 ^ 22)
    rw [abs_neg, Nat.abs_cast]
    omega

/-! ## Registers of one step -/

/-- Advancing a phase is addition modulo 2^32 (R69, R70). -/
theorem addPhase_eq_add (p : Word) (n : Nat) : addPhase p n = p + BitVec.ofNat 32 n := by
  apply BitVec.eq_of_toNat_eq
  simp [addPhase]

theorem word_ne_zero_iff (x : Word) : x ≠ 0 ↔ x.toNat ≠ 0 := by
  constructor
  · intro h e
    exact h (BitVec.eq_of_toNat_eq (by simpa using e))
  · rintro h rfl
    exact h rfl

/-- The countdown of a sounding step (R81). -/
theorem sub_one_eq (x : Word) (h : x ≠ 0) : x - 1 = BitVec.ofNat 32 (x.toNat - 1) := by
  have := (word_ne_zero_iff x).1 h
  have := x.isLt
  apply BitVec.eq_of_toNat_eq
  rw [BitVec.toNat_sub, BitVec.toNat_ofNat]
  simp
  omega

/-- SAMPLES_REMAINING falls by one, and not below 0 (R20, R81). -/
theorem sampleStep_samplesRemaining (v : Variant) (g : Word) (y : Synth) :
    (sampleStep v g y).2.samplesRemaining.toNat = y.samplesRemaining.toNat - 1 := by
  unfold sampleStep
  split
  · rename_i h
    rw [h]
    rfl
  · rename_i h
    have := congrArg BitVec.toNat (sub_one_eq _ h)
    rw [BitVec.toNat_ofNat] at this
    have := y.samplesRemaining.isLt
    cases v <;> simp only [stepSimple, stepFm] <;> omega

/-- SAMPLES_REMAINING falls by the number of steps, and not below 0 (R82). -/
theorem advance_samplesRemaining (v : Variant) (g : Word) (n : Nat) (y : Synth) :
    (advance v g n y).2.samplesRemaining.toNat = y.samplesRemaining.toNat - n := by
  induction n generalizing y with
  | zero => simp
  | succ n ih =>
    rw [advance_succ]
    simp only
    rw [ih, sampleStep_samplesRemaining]
    omega

end Sys2Proof.Machine
end

