-- ==== Sys2Proof/Laws/Assembler.lean ====
section
/-! SUPPORT. The word of a command line is the command's encoding (30_encoding.md rules R61, R66). -/

namespace Sys2Proof.Machine

/-- R66's formula for GENERATE is the sum of its parts when the operands fit their fields. -/
theorem commandWord_generate (b n : Nat) (hb : b < 4) (hn : n < 4096) :
    commandWord (.generate b n) = encode (.generate b n) := by
  have hsum : 0x50000000 ||| b <<< 16 ||| n = 0x50000000 + b * 65536 + n := by
    have h1 : 0x50000000 ||| b <<< 16 = 0x50000000 + b * 65536 := by interval_cases b <;> rfl
    have h2 : 0x50000000 + b * 65536 = (0x5000 + b) <<< 16 := by rw [Nat.shiftLeft_eq]; omega
    rw [h1, h2, Nat.shiftLeft_add_eq_or_of_lt (by omega)]
  have hw : commandWord (.generate b n) = BitVec.ofNat 32 (0x50000000 ||| b <<< 16 ||| n) := by
    apply BitVec.eq_of_toNat_eq
    simp only [commandWord, BitVec.toNat_or, BitVec.toNat_shiftLeft, BitVec.toNat_ofNat]
    rw [Nat.mod_eq_of_lt (a := b) (by omega), Nat.mod_eq_of_lt (a := n) (by omega), Nat.mod_eq_of_lt (a := b <<< 16)
      (by rw [Nat.shiftLeft_eq]; omega), hsum]
    omega
  rw [hw, hsum]
  simp only [encode, opcode, operandBits]
  congr 1
  omega

/-- A line with a well-formed command writes the command's word. -/
theorem commandWord_eq_encode (i : Instr) (h : i.WellFormed) : commandWord i = encode i := by
  cases i with
  | generate b n => exact commandWord_generate b n h.1 h.2
  | nop | trigger | setVolume | start | shutdown => rfl

end Sys2Proof.Machine
end

