-- ==== Sys2Proof/Laws/Memory.lean ====
section
/-! SUPPORT. The laws of the byte memory: every operation keeps the canonical form, and what a byte reads after a block is
stored or a range is cleared. -/

namespace Sys2Proof.Machine

/-! ## The canonical form -/

theorem Memory.wf_nil : Memory.wf [] := ⟨List.Pairwise.nil, by simp⟩

/-- The cells of a block lie in the block and are listed bytes. -/
theorem Memory.mem_cells {base : Nat} {bs : List Byte} {c : Host.Cell} (h : c ∈ Memory.cells base bs) :
    base ≤ c.1 ∧ c.1 < base + bs.length ∧ c.2 ≠ unlistedByte := by
  induction bs generalizing base with
  | nil => simp [Memory.cells] at h
  | cons b bs ih =>
    simp only [Memory.cells] at h
    split at h
    · have := ih h
      exact ⟨by omega, by simp only [List.length_cons]; omega, this.2.2⟩
    · rename_i hb
      rcases List.mem_cons.1 h with rfl | h
      · exact ⟨Nat.le_refl _, by simp, hb⟩
      · have := ih h
        exact ⟨by omega, by simp only [List.length_cons]; omega, this.2.2⟩

theorem Memory.wf_cells (base : Nat) (bs : List Byte) : (Memory.cells base bs).wf := by
  refine ⟨?_, fun c hc => (Memory.mem_cells hc).2.2⟩
  induction bs generalizing base with
  | nil => exact List.Pairwise.nil
  | cons b bs ih =>
    simp only [Memory.cells]
    split
    · exact ih _
    · exact List.Pairwise.cons (fun c hc => (Memory.mem_cells hc).1) (ih _)

/-- A cell of the memory after a block is stored is an old cell outside the block or a cell of the block. -/
theorem Memory.mem_writeBlock {m : Memory} {base : Nat} {bs : List Byte} {c : Host.Cell} :
    c ∈ m.writeBlock base bs ↔
      (c ∈ m ∧ (c.1 < base ∨ base + bs.length ≤ c.1)) ∨ c ∈ Memory.cells base bs := by
  simp only [Memory.writeBlock, List.mem_append, List.mem_filter, decide_eq_true_eq]
  tauto

/-- Storing a block keeps the canonical form. -/
theorem Memory.wf_writeBlock {m : Memory} (h : m.wf) (base : Nat) (bs : List Byte) :
    (m.writeBlock base bs).wf := by
  have hc := Memory.wf_cells base bs
  constructor
  · simp only [Memory.writeBlock, List.pairwise_append, List.mem_append, List.mem_filter, decide_eq_true_eq]
    refine ⟨⟨h.1.filter _, hc.1, ?_⟩, h.1.filter _, ?_⟩
    · intro x hx y hy
      have := Memory.mem_cells hy
      omega
    · rintro x (hx | hx) y hy
      · omega
      · have := Memory.mem_cells hx
        omega
  · intro c hm
    rcases Memory.mem_writeBlock.1 hm with hm | hm
    · exact h.2 c hm.1
    · exact hc.2 c hm

/-- Clearing a range keeps the canonical form. -/
theorem Memory.wf_clearRange {m : Memory} (h : m.wf) (lo hi : Nat) : (m.clearRange lo hi).wf :=
  ⟨h.1.filter _, fun c hc => h.2 c (List.mem_filter.1 hc).1⟩

/-! ## Reading -/

@[simp] theorem Memory.read_nil (a : Nat) : Memory.read [] a = unlistedByte := rfl

/-- An address with no cell reads as an unlisted address. -/
theorem Memory.read_of_not_mem {m : Memory} {a : Nat} (h : ∀ c ∈ m, c.1 ≠ a) : m.read a = unlistedByte := by
  induction m with
  | nil => rfl
  | cons c m ih =>
    simp only [Memory.read]
    rw [if_neg (h c (by simp))]
    exact ih fun d hd => h d (by simp [hd])

theorem Memory.read_append (m₁ m₂ : Memory) (a : Nat) :
    Memory.read (m₁ ++ m₂) a = if ∃ c ∈ m₁, c.1 = a then m₁.read a else m₂.read a := by
  induction m₁ with
  | nil => simp
  | cons c m ih =>
    simp only [List.cons_append, Memory.read, ih]
    by_cases h : c.1 = a
    · simp [h]
    · simp [h]

/-- Dropping cells at other addresses does not change what an address reads. -/
theorem Memory.read_filter (m : Memory) (p : Host.Cell → Bool) (a : Nat) (h : ∀ c, c.1 = a → p c = true) :
    Memory.read (m.filter p) a = m.read a := by
  induction m with
  | nil => rfl
  | cons c m ih =>
    by_cases hp : p c = true
    · simp only [List.filter_cons_of_pos hp, Memory.read, ih]
    · have hne : c.1 ≠ a := fun e => hp (h c e)
      rw [List.filter_cons_of_neg hp, ih, Memory.read, if_neg hne]

theorem Memory.read_cells (base : Nat) (bs : List Byte) (a : Nat) :
    Memory.read (Memory.cells base bs) a =
      if base ≤ a ∧ a < base + bs.length then bs.getD (a - base) unlistedByte else unlistedByte := by
  induction bs generalizing base with
  | nil => simp [Memory.cells]
  | cons b bs ih =>
    have tail : Memory.read (Memory.cells (base + 1) bs) a =
        if base + 1 ≤ a ∧ a < base + 1 + bs.length then bs.getD (a - (base + 1)) unlistedByte
        else unlistedByte := ih (base + 1)
    by_cases e : base = a
    · subst e
      by_cases hb : b = unlistedByte
      · simp [Memory.cells, hb, tail]
      · simp [Memory.cells, hb, Memory.read]
    · have hr : Memory.read (Memory.cells base (b :: bs)) a = Memory.read (Memory.cells (base + 1) bs) a := by
        by_cases hb : b = unlistedByte
        · simp [Memory.cells, hb]
        · simp [Memory.cells, hb, Memory.read, e]
      rw [hr, tail]
      by_cases h1 : base + 1 ≤ a ∧ a < base + 1 + bs.length
      · rw [if_pos h1, if_pos ⟨by omega, by simp only [List.length_cons]; omega⟩]
        have : a - base = a - (base + 1) + 1 := by omega
        rw [this, List.getD_cons_succ]
      · rw [if_neg h1, if_neg]
        rintro ⟨h2, h3⟩
        simp only [List.length_cons] at h3
        omega

/-- A byte inside a stored block reads as stored. -/
theorem Memory.read_writeBlock_inside (m : Memory) (base : Nat) (bs : List Byte) (a : Nat) (h1 : base ≤ a)
    (h2 : a < base + bs.length) : (m.writeBlock base bs).read a = bs.getD (a - base) unlistedByte := by
  have hc := Memory.read_cells base bs a
  rw [if_pos ⟨h1, h2⟩] at hc
  simp only [Memory.writeBlock, Memory.read_append]
  have hlow : ¬ ∃ c ∈ m.filter (fun c => decide (c.1 < base)), c.1 = a := by
    rintro ⟨c, hm, e⟩
    simp only [List.mem_filter, decide_eq_true_eq] at hm
    omega
  by_cases hin : ∃ c ∈ Memory.cells base bs, c.1 = a
  · have : ∃ c ∈ m.filter (fun c => decide (c.1 < base)) ++ Memory.cells base bs, c.1 = a := by
      obtain ⟨c, hm, e⟩ := hin
      exact ⟨c, by simp [hm], e⟩
    rw [if_pos this, if_neg hlow, hc]
  · have : ¬ ∃ c ∈ m.filter (fun c => decide (c.1 < base)) ++ Memory.cells base bs, c.1 = a := by
      rintro ⟨c, hm, e⟩
      rcases List.mem_append.1 hm with hm | hm
      · exact hlow ⟨c, hm, e⟩
      · exact hin ⟨c, hm, e⟩
    rw [if_neg this, ← hc, Memory.read_of_not_mem, Memory.read_of_not_mem]
    · intro c hm e
      exact hin ⟨c, hm, e⟩
    · intro c hm e
      simp only [List.mem_filter, decide_eq_true_eq] at hm
      omega

/-- A byte outside a stored block reads as before. -/
theorem Memory.read_writeBlock_outside (m : Memory) (base : Nat) (bs : List Byte) (a : Nat)
    (h : a < base ∨ base + bs.length ≤ a) : (m.writeBlock base bs).read a = m.read a := by
  have hmid : ¬ ∃ c ∈ Memory.cells base bs, c.1 = a := by
    rintro ⟨c, hm, e⟩
    have := Memory.mem_cells hm
    omega
  simp only [Memory.writeBlock, Memory.read_append]
  rcases Nat.lt_or_ge a base with hlt | hge
  · have hlow : Memory.read (m.filter (fun c => decide (c.1 < base))) a = m.read a :=
      Memory.read_filter _ _ _ fun c e => by simp only [decide_eq_true_eq]; omega
    by_cases hin : ∃ c ∈ m.filter (fun c => decide (c.1 < base)), c.1 = a
    · rw [if_pos, if_pos hin, hlow]
      obtain ⟨c, hm, e⟩ := hin
      exact ⟨c, List.mem_append_left _ hm, e⟩
    · rw [if_neg, ← hlow, Memory.read_of_not_mem, Memory.read_of_not_mem]
      · intro c hm e
        exact hin ⟨c, hm, e⟩
      · intro c hm e
        simp only [List.mem_filter, decide_eq_true_eq] at hm
        omega
      · rintro ⟨c, hm, e⟩
        rcases List.mem_append.1 hm with hm | hm
        · exact hin ⟨c, hm, e⟩
        · exact hmid ⟨c, hm, e⟩
  · have hhi : base + bs.length ≤ a := by omega
    rw [if_neg, Memory.read_filter]
    · intro c e
      simp only [decide_eq_true_eq]
      omega
    · rintro ⟨c, hm, e⟩
      rcases List.mem_append.1 hm with hm | hm
      · simp only [List.mem_filter, decide_eq_true_eq] at hm
        omega
      · exact hmid ⟨c, hm, e⟩

/-- A byte of a cleared range reads as an unlisted address. -/
theorem Memory.read_clearRange_inside (m : Memory) (lo hi a : Nat) (h : lo ≤ a ∧ a < hi) :
    (m.clearRange lo hi).read a = unlistedByte :=
  Memory.read_of_not_mem fun c hc e => by
    simp only [Memory.clearRange, List.mem_filter, decide_eq_true_eq] at hc
    omega

/-- A byte outside a cleared range reads as before. -/
theorem Memory.read_clearRange_outside (m : Memory) (lo hi a : Nat) (h : a < lo ∨ hi ≤ a) :
    (m.clearRange lo hi).read a = m.read a :=
  Memory.read_filter _ _ _ fun c e => by
    simp only [decide_eq_true_eq]
    omega

end Sys2Proof.Machine
end

