-- ==== Sys2Proof/Laws/State.lean ====
section
/-! SUPPORT. One lemma per field per update of State, true by rfl, so that no later proof unfolds a record update. -/

namespace Sys2Proof.Machine

variable (s : State) (cfg : Config) (lvl : Bool) (es : List Event) (n : Nat)

/-! ### `State.setSynth` (R13) -/

@[simp] theorem State.setSynth_cfg (y : Synth) : (s.setSynth y).cfg = s.cfg := rfl
@[simp] theorem State.setSynth_synth (y : Synth) : (s.setSynth y).synth = y := rfl
@[simp] theorem State.setSynth_freqArg (y : Synth) : (s.setSynth y).freqArg = s.freqArg := rfl
@[simp] theorem State.setSynth_volArg (y : Synth) : (s.setSynth y).volArg = s.volArg := rfl
@[simp] theorem State.setSynth_masterGain (y : Synth) : (s.setSynth y).masterGain = s.masterGain := rfl
@[simp] theorem State.setSynth_running (y : Synth) : (s.setSynth y).running = s.running := rfl
@[simp] theorem State.setSynth_sticky (y : Synth) : (s.setSynth y).sticky = s.sticky := rfl
@[simp] theorem State.setSynth_errCause (y : Synth) : (s.setSynth y).errCause = s.errCause := rfl
@[simp] theorem State.setSynth_errInfo (y : Synth) : (s.setSynth y).errInfo = s.errInfo := rfl
@[simp] theorem State.setSynth_errCount (y : Synth) : (s.setSynth y).errCount = s.errCount := rfl
@[simp] theorem State.setSynth_fillCount (y : Synth) : (s.setSynth y).fillCount = s.fillCount := rfl
@[simp] theorem State.setSynth_fillTime (y : Synth) : (s.setSynth y).fillTime = s.fillTime := rfl
@[simp] theorem State.setSynth_fillTimeHeld (y : Synth) : (s.setSynth y).fillTimeHeld = s.fillTimeHeld := rfl
@[simp] theorem State.setSynth_mem (y : Synth) : (s.setSynth y).mem = s.mem := rfl
@[simp] theorem State.setSynth_pq (y : Synth) : (s.setSynth y).pq = s.pq := rfl
@[simp] theorem State.setSynth_fq (y : Synth) : (s.setSynth y).fq = s.fq := rfl
@[simp] theorem State.setSynth_trace (y : Synth) : (s.setSynth y).trace = s.trace := rfl
@[simp] theorem State.setSynth_busResp (y : Synth) : (s.setSynth y).busResp = s.busResp := rfl
@[simp] theorem State.setSynth_sinkReady (y : Synth) : (s.setSynth y).sinkReady = s.sinkReady := rfl
@[simp] theorem State.setSynth_schedule (y : Synth) : (s.setSynth y).schedule = s.schedule := rfl
@[simp] theorem State.setSynth_fillWait (y : Synth) : (s.setSynth y).fillWait = s.fillWait := rfl
@[simp] theorem State.setSynth_draws (y : Synth) : (s.setSynth y).draws = s.draws := rfl

/-! ### `State.storeFrames` (R100) -/

@[simp] theorem State.storeFrames_cfg (b : Nat) (fs : List Sample) : (s.storeFrames b fs).cfg = s.cfg := rfl
@[simp] theorem State.storeFrames_synth (b : Nat) (fs : List Sample) : (s.storeFrames b fs).synth = s.synth := rfl
@[simp] theorem State.storeFrames_freqArg (b : Nat) (fs : List Sample) :
    (s.storeFrames b fs).freqArg = s.freqArg := rfl
@[simp] theorem State.storeFrames_volArg (b : Nat) (fs : List Sample) : (s.storeFrames b fs).volArg = s.volArg := rfl
@[simp] theorem State.storeFrames_masterGain (b : Nat) (fs : List Sample) :
    (s.storeFrames b fs).masterGain = s.masterGain := rfl
@[simp] theorem State.storeFrames_running (b : Nat) (fs : List Sample) :
    (s.storeFrames b fs).running = s.running := rfl
@[simp] theorem State.storeFrames_sticky (b : Nat) (fs : List Sample) : (s.storeFrames b fs).sticky = s.sticky := rfl
@[simp] theorem State.storeFrames_errCause (b : Nat) (fs : List Sample) :
    (s.storeFrames b fs).errCause = s.errCause := rfl
@[simp] theorem State.storeFrames_errInfo (b : Nat) (fs : List Sample) :
    (s.storeFrames b fs).errInfo = s.errInfo := rfl
@[simp] theorem State.storeFrames_errCount (b : Nat) (fs : List Sample) :
    (s.storeFrames b fs).errCount = s.errCount := rfl
@[simp] theorem State.storeFrames_fillCount (b : Nat) (fs : List Sample) :
    (s.storeFrames b fs).fillCount = s.fillCount := rfl
@[simp] theorem State.storeFrames_fillTime (b : Nat) (fs : List Sample) :
    (s.storeFrames b fs).fillTime = s.fillTime := rfl
@[simp] theorem State.storeFrames_fillTimeHeld (b : Nat) (fs : List Sample) :
    (s.storeFrames b fs).fillTimeHeld = s.fillTimeHeld := rfl
@[simp] theorem State.storeFrames_mem (b : Nat) (fs : List Sample) :
    (s.storeFrames b fs).mem = s.mem.writeBlock (frameAddr s.cfg b 0) (fs.flatMap frameBytes) := rfl
@[simp] theorem State.storeFrames_pq (b : Nat) (fs : List Sample) : (s.storeFrames b fs).pq = s.pq := rfl
@[simp] theorem State.storeFrames_fq (b : Nat) (fs : List Sample) : (s.storeFrames b fs).fq = s.fq := rfl
@[simp] theorem State.storeFrames_trace (b : Nat) (fs : List Sample) : (s.storeFrames b fs).trace = s.trace := rfl
@[simp] theorem State.storeFrames_busResp (b : Nat) (fs : List Sample) :
    (s.storeFrames b fs).busResp = s.busResp := rfl
@[simp] theorem State.storeFrames_sinkReady (b : Nat) (fs : List Sample) :
    (s.storeFrames b fs).sinkReady = s.sinkReady := rfl
@[simp] theorem State.storeFrames_schedule (b : Nat) (fs : List Sample) :
    (s.storeFrames b fs).schedule = s.schedule := rfl
@[simp] theorem State.storeFrames_fillWait (b : Nat) (fs : List Sample) :
    (s.storeFrames b fs).fillWait = s.fillWait := rfl
@[simp] theorem State.storeFrames_draws (b : Nat) (fs : List Sample) : (s.storeFrames b fs).draws = s.draws := rfl

/-! ### `State.clearBuf` (R92) -/

@[simp] theorem State.clearBuf_cfg : s.clearBuf.cfg = s.cfg := rfl
@[simp] theorem State.clearBuf_synth : s.clearBuf.synth = s.synth := rfl
@[simp] theorem State.clearBuf_freqArg : s.clearBuf.freqArg = s.freqArg := rfl
@[simp] theorem State.clearBuf_volArg : s.clearBuf.volArg = s.volArg := rfl
@[simp] theorem State.clearBuf_masterGain : s.clearBuf.masterGain = s.masterGain := rfl
@[simp] theorem State.clearBuf_running : s.clearBuf.running = s.running := rfl
@[simp] theorem State.clearBuf_sticky : s.clearBuf.sticky = s.sticky := rfl
@[simp] theorem State.clearBuf_errCause : s.clearBuf.errCause = s.errCause := rfl
@[simp] theorem State.clearBuf_errInfo : s.clearBuf.errInfo = s.errInfo := rfl
@[simp] theorem State.clearBuf_errCount : s.clearBuf.errCount = s.errCount := rfl
@[simp] theorem State.clearBuf_fillCount : s.clearBuf.fillCount = s.fillCount := rfl
@[simp] theorem State.clearBuf_fillTime : s.clearBuf.fillTime = s.fillTime := rfl
@[simp] theorem State.clearBuf_fillTimeHeld : s.clearBuf.fillTimeHeld = s.fillTimeHeld := rfl
@[simp] theorem State.clearBuf_mem : s.clearBuf.mem = s.mem.clearRange bufBase (windowEnd s.cfg) := rfl
@[simp] theorem State.clearBuf_pq : s.clearBuf.pq = s.pq := rfl
@[simp] theorem State.clearBuf_fq : s.clearBuf.fq = s.fq := rfl
@[simp] theorem State.clearBuf_trace : s.clearBuf.trace = s.trace := rfl
@[simp] theorem State.clearBuf_busResp : s.clearBuf.busResp = s.busResp := rfl
@[simp] theorem State.clearBuf_sinkReady : s.clearBuf.sinkReady = s.sinkReady := rfl
@[simp] theorem State.clearBuf_schedule : s.clearBuf.schedule = s.schedule := rfl
@[simp] theorem State.clearBuf_fillWait : s.clearBuf.fillWait = s.fillWait := rfl
@[simp] theorem State.clearBuf_draws : s.clearBuf.draws = s.draws := rfl

/-! ### `State.raiseError` (R112) -/

@[simp] theorem State.raiseError_cfg (c : ErrCode) (info : Word) : (s.raiseError c info).cfg = s.cfg := rfl
@[simp] theorem State.raiseError_synth (c : ErrCode) (info : Word) : (s.raiseError c info).synth = s.synth := rfl
@[simp] theorem State.raiseError_freqArg (c : ErrCode) (info : Word) :
    (s.raiseError c info).freqArg = s.freqArg := rfl
@[simp] theorem State.raiseError_volArg (c : ErrCode) (info : Word) : (s.raiseError c info).volArg = s.volArg := rfl
@[simp] theorem State.raiseError_masterGain (c : ErrCode) (info : Word) :
    (s.raiseError c info).masterGain = s.masterGain := rfl
@[simp] theorem State.raiseError_running (c : ErrCode) (info : Word) :
    (s.raiseError c info).running = s.running := rfl
@[simp] theorem State.raiseError_sticky (c : ErrCode) (info : Word) :
    (s.raiseError c info).sticky = s.sticky.set c := rfl
@[simp] theorem State.raiseError_errCause (c : ErrCode) (info : Word) : (s.raiseError c info).errCause = c := rfl
@[simp] theorem State.raiseError_errInfo (c : ErrCode) (info : Word) : (s.raiseError c info).errInfo = info := rfl
@[simp] theorem State.raiseError_errCount (c : ErrCode) (info : Word) :
    (s.raiseError c info).errCount = s.errCount + 1 := rfl
@[simp] theorem State.raiseError_fillCount (c : ErrCode) (info : Word) :
    (s.raiseError c info).fillCount = s.fillCount := rfl
@[simp] theorem State.raiseError_fillTime (c : ErrCode) (info : Word) :
    (s.raiseError c info).fillTime = s.fillTime := rfl
@[simp] theorem State.raiseError_fillTimeHeld (c : ErrCode) (info : Word) :
    (s.raiseError c info).fillTimeHeld = s.fillTimeHeld := rfl
@[simp] theorem State.raiseError_mem (c : ErrCode) (info : Word) : (s.raiseError c info).mem = s.mem := rfl
@[simp] theorem State.raiseError_pq (c : ErrCode) (info : Word) : (s.raiseError c info).pq = s.pq := rfl
@[simp] theorem State.raiseError_fq (c : ErrCode) (info : Word) : (s.raiseError c info).fq = s.fq := rfl
@[simp] theorem State.raiseError_trace (c : ErrCode) (info : Word) : (s.raiseError c info).trace = s.trace := rfl
@[simp] theorem State.raiseError_busResp (c : ErrCode) (info : Word) :
    (s.raiseError c info).busResp = s.busResp := rfl
@[simp] theorem State.raiseError_sinkReady (c : ErrCode) (info : Word) :
    (s.raiseError c info).sinkReady = s.sinkReady := rfl
@[simp] theorem State.raiseError_schedule (c : ErrCode) (info : Word) :
    (s.raiseError c info).schedule = s.schedule := rfl
@[simp] theorem State.raiseError_fillWait (c : ErrCode) (info : Word) :
    (s.raiseError c info).fillWait = s.fillWait := rfl
@[simp] theorem State.raiseError_draws (c : ErrCode) (info : Word) : (s.raiseError c info).draws = s.draws := rfl

/-! ### `State.clearSticky` (R27) -/

@[simp] theorem State.clearSticky_cfg (w : Word) : (s.clearSticky w).cfg = s.cfg := rfl
@[simp] theorem State.clearSticky_synth (w : Word) : (s.clearSticky w).synth = s.synth := rfl
@[simp] theorem State.clearSticky_freqArg (w : Word) : (s.clearSticky w).freqArg = s.freqArg := rfl
@[simp] theorem State.clearSticky_volArg (w : Word) : (s.clearSticky w).volArg = s.volArg := rfl
@[simp] theorem State.clearSticky_masterGain (w : Word) : (s.clearSticky w).masterGain = s.masterGain := rfl
@[simp] theorem State.clearSticky_running (w : Word) : (s.clearSticky w).running = s.running := rfl
@[simp] theorem State.clearSticky_sticky (w : Word) : (s.clearSticky w).sticky = s.sticky.w1c w := rfl
@[simp] theorem State.clearSticky_errCause (w : Word) : (s.clearSticky w).errCause = s.errCause := rfl
@[simp] theorem State.clearSticky_errInfo (w : Word) : (s.clearSticky w).errInfo = s.errInfo := rfl
@[simp] theorem State.clearSticky_errCount (w : Word) : (s.clearSticky w).errCount = s.errCount := rfl
@[simp] theorem State.clearSticky_fillCount (w : Word) : (s.clearSticky w).fillCount = s.fillCount := rfl
@[simp] theorem State.clearSticky_fillTime (w : Word) : (s.clearSticky w).fillTime = s.fillTime := rfl
@[simp] theorem State.clearSticky_fillTimeHeld (w : Word) : (s.clearSticky w).fillTimeHeld = s.fillTimeHeld := rfl
@[simp] theorem State.clearSticky_mem (w : Word) : (s.clearSticky w).mem = s.mem := rfl
@[simp] theorem State.clearSticky_pq (w : Word) : (s.clearSticky w).pq = s.pq := rfl
@[simp] theorem State.clearSticky_fq (w : Word) : (s.clearSticky w).fq = s.fq := rfl
@[simp] theorem State.clearSticky_trace (w : Word) : (s.clearSticky w).trace = s.trace := rfl
@[simp] theorem State.clearSticky_busResp (w : Word) : (s.clearSticky w).busResp = s.busResp := rfl
@[simp] theorem State.clearSticky_sinkReady (w : Word) : (s.clearSticky w).sinkReady = s.sinkReady := rfl
@[simp] theorem State.clearSticky_schedule (w : Word) : (s.clearSticky w).schedule = s.schedule := rfl
@[simp] theorem State.clearSticky_fillWait (w : Word) : (s.clearSticky w).fillWait = s.fillWait := rfl
@[simp] theorem State.clearSticky_draws (w : Word) : (s.clearSticky w).draws = s.draws := rfl

/-! ### `State.emit` (R102) -/

@[simp] theorem State.emit_cfg (e : OutEvent) : (s.emit e).cfg = s.cfg := rfl
@[simp] theorem State.emit_synth (e : OutEvent) : (s.emit e).synth = s.synth := rfl
@[simp] theorem State.emit_freqArg (e : OutEvent) : (s.emit e).freqArg = s.freqArg := rfl
@[simp] theorem State.emit_volArg (e : OutEvent) : (s.emit e).volArg = s.volArg := rfl
@[simp] theorem State.emit_masterGain (e : OutEvent) : (s.emit e).masterGain = s.masterGain := rfl
@[simp] theorem State.emit_running (e : OutEvent) : (s.emit e).running = s.running := rfl
@[simp] theorem State.emit_sticky (e : OutEvent) : (s.emit e).sticky = s.sticky := rfl
@[simp] theorem State.emit_errCause (e : OutEvent) : (s.emit e).errCause = s.errCause := rfl
@[simp] theorem State.emit_errInfo (e : OutEvent) : (s.emit e).errInfo = s.errInfo := rfl
@[simp] theorem State.emit_errCount (e : OutEvent) : (s.emit e).errCount = s.errCount := rfl
@[simp] theorem State.emit_fillCount (e : OutEvent) : (s.emit e).fillCount = s.fillCount := rfl
@[simp] theorem State.emit_fillTime (e : OutEvent) : (s.emit e).fillTime = s.fillTime := rfl
@[simp] theorem State.emit_fillTimeHeld (e : OutEvent) : (s.emit e).fillTimeHeld = s.fillTimeHeld := rfl
@[simp] theorem State.emit_mem (e : OutEvent) : (s.emit e).mem = s.mem := rfl
@[simp] theorem State.emit_pq (e : OutEvent) : (s.emit e).pq = s.pq := rfl
@[simp] theorem State.emit_fq (e : OutEvent) : (s.emit e).fq = s.fq := rfl
@[simp] theorem State.emit_trace (e : OutEvent) : (s.emit e).trace = s.trace ++ [e] := rfl
@[simp] theorem State.emit_busResp (e : OutEvent) : (s.emit e).busResp = s.busResp := rfl
@[simp] theorem State.emit_sinkReady (e : OutEvent) : (s.emit e).sinkReady = s.sinkReady := rfl
@[simp] theorem State.emit_schedule (e : OutEvent) : (s.emit e).schedule = s.schedule := rfl
@[simp] theorem State.emit_fillWait (e : OutEvent) : (s.emit e).fillWait = s.fillWait := rfl
@[simp] theorem State.emit_draws (e : OutEvent) : (s.emit e).draws = s.draws := rfl

/-! ### `State.respond` (R105) -/

@[simp] theorem State.respond_cfg (r : BusResp) : (s.respond r).cfg = s.cfg := rfl
@[simp] theorem State.respond_synth (r : BusResp) : (s.respond r).synth = s.synth := rfl
@[simp] theorem State.respond_freqArg (r : BusResp) : (s.respond r).freqArg = s.freqArg := rfl
@[simp] theorem State.respond_volArg (r : BusResp) : (s.respond r).volArg = s.volArg := rfl
@[simp] theorem State.respond_masterGain (r : BusResp) : (s.respond r).masterGain = s.masterGain := rfl
@[simp] theorem State.respond_running (r : BusResp) : (s.respond r).running = s.running := rfl
@[simp] theorem State.respond_sticky (r : BusResp) : (s.respond r).sticky = s.sticky := rfl
@[simp] theorem State.respond_errCause (r : BusResp) : (s.respond r).errCause = s.errCause := rfl
@[simp] theorem State.respond_errInfo (r : BusResp) : (s.respond r).errInfo = s.errInfo := rfl
@[simp] theorem State.respond_errCount (r : BusResp) : (s.respond r).errCount = s.errCount := rfl
@[simp] theorem State.respond_fillCount (r : BusResp) : (s.respond r).fillCount = s.fillCount := rfl
@[simp] theorem State.respond_fillTime (r : BusResp) : (s.respond r).fillTime = s.fillTime := rfl
@[simp] theorem State.respond_fillTimeHeld (r : BusResp) : (s.respond r).fillTimeHeld = s.fillTimeHeld := rfl
@[simp] theorem State.respond_mem (r : BusResp) : (s.respond r).mem = s.mem := rfl
@[simp] theorem State.respond_pq (r : BusResp) : (s.respond r).pq = s.pq := rfl
@[simp] theorem State.respond_fq (r : BusResp) : (s.respond r).fq = s.fq := rfl
@[simp] theorem State.respond_trace (r : BusResp) : (s.respond r).trace = s.trace := rfl
@[simp] theorem State.respond_busResp (r : BusResp) : (s.respond r).busResp = r := rfl
@[simp] theorem State.respond_sinkReady (r : BusResp) : (s.respond r).sinkReady = s.sinkReady := rfl
@[simp] theorem State.respond_schedule (r : BusResp) : (s.respond r).schedule = s.schedule := rfl
@[simp] theorem State.respond_fillWait (r : BusResp) : (s.respond r).fillWait = s.fillWait := rfl
@[simp] theorem State.respond_draws (r : BusResp) : (s.respond r).draws = s.draws := rfl

/-! ### `State.completeFill` (R100) -/

@[simp] theorem State.completeFill_cfg (b : Nat) : (s.completeFill b).cfg = s.cfg := rfl
@[simp] theorem State.completeFill_synth (b : Nat) : (s.completeFill b).synth = s.synth := rfl
@[simp] theorem State.completeFill_freqArg (b : Nat) : (s.completeFill b).freqArg = s.freqArg := rfl
@[simp] theorem State.completeFill_volArg (b : Nat) : (s.completeFill b).volArg = s.volArg := rfl
@[simp] theorem State.completeFill_masterGain (b : Nat) : (s.completeFill b).masterGain = s.masterGain := rfl
@[simp] theorem State.completeFill_running (b : Nat) : (s.completeFill b).running = s.running := rfl
@[simp] theorem State.completeFill_sticky (b : Nat) : (s.completeFill b).sticky = s.sticky := rfl
@[simp] theorem State.completeFill_errCause (b : Nat) : (s.completeFill b).errCause = s.errCause := rfl
@[simp] theorem State.completeFill_errInfo (b : Nat) : (s.completeFill b).errInfo = s.errInfo := rfl
@[simp] theorem State.completeFill_errCount (b : Nat) : (s.completeFill b).errCount = s.errCount := rfl
@[simp] theorem State.completeFill_fillCount (b : Nat) : (s.completeFill b).fillCount = s.fillCount + 1 := rfl
@[simp] theorem State.completeFill_fillTime (b : Nat) : (s.completeFill b).fillTime = Config.freeWord s.draws := rfl
@[simp] theorem State.completeFill_fillTimeHeld (b : Nat) : (s.completeFill b).fillTimeHeld = true := rfl
@[simp] theorem State.completeFill_mem (b : Nat) : (s.completeFill b).mem = s.mem := rfl
@[simp] theorem State.completeFill_pq (b : Nat) : (s.completeFill b).pq = s.pq ++ [b] := rfl
@[simp] theorem State.completeFill_fq (b : Nat) : (s.completeFill b).fq = s.fq := rfl
@[simp] theorem State.completeFill_trace (b : Nat) : (s.completeFill b).trace = s.trace := rfl
@[simp] theorem State.completeFill_busResp (b : Nat) : (s.completeFill b).busResp = s.busResp := rfl
@[simp] theorem State.completeFill_sinkReady (b : Nat) : (s.completeFill b).sinkReady = s.sinkReady := rfl
@[simp] theorem State.completeFill_schedule (b : Nat) : (s.completeFill b).schedule = s.schedule := rfl
@[simp] theorem State.completeFill_fillWait (b : Nat) : (s.completeFill b).fillWait = s.fillWait := rfl
@[simp] theorem State.completeFill_draws (b : Nat) : (s.completeFill b).draws = s.draws + 1 := rfl

/-! ### `State.advanceInto` (R93) -/

@[simp] theorem State.advanceInto_cfg (b n : Nat) : (s.advanceInto b n).cfg = s.cfg := rfl
@[simp] theorem State.advanceInto_synth (b n : Nat) :
    (s.advanceInto b n).synth = (advance s.cfg.variant s.masterGain n s.synth).2 := rfl
@[simp] theorem State.advanceInto_freqArg (b n : Nat) : (s.advanceInto b n).freqArg = s.freqArg := rfl
@[simp] theorem State.advanceInto_volArg (b n : Nat) : (s.advanceInto b n).volArg = s.volArg := rfl
@[simp] theorem State.advanceInto_masterGain (b n : Nat) : (s.advanceInto b n).masterGain = s.masterGain := rfl
@[simp] theorem State.advanceInto_running (b n : Nat) : (s.advanceInto b n).running = s.running := rfl
@[simp] theorem State.advanceInto_sticky (b n : Nat) : (s.advanceInto b n).sticky = s.sticky := rfl
@[simp] theorem State.advanceInto_errCause (b n : Nat) : (s.advanceInto b n).errCause = s.errCause := rfl
@[simp] theorem State.advanceInto_errInfo (b n : Nat) : (s.advanceInto b n).errInfo = s.errInfo := rfl
@[simp] theorem State.advanceInto_errCount (b n : Nat) : (s.advanceInto b n).errCount = s.errCount := rfl
@[simp] theorem State.advanceInto_fillCount (b n : Nat) : (s.advanceInto b n).fillCount = s.fillCount := rfl
@[simp] theorem State.advanceInto_fillTime (b n : Nat) : (s.advanceInto b n).fillTime = s.fillTime := rfl
@[simp] theorem State.advanceInto_fillTimeHeld (b n : Nat) : (s.advanceInto b n).fillTimeHeld = s.fillTimeHeld := rfl
@[simp] theorem State.advanceInto_mem (b n : Nat) :
    (s.advanceInto b n).mem = s.mem.writeBlock (frameAddr s.cfg b 0) (((advance s.cfg.variant s.masterGain n s.synth).1.map u16).flatMap frameBytes) := rfl
@[simp] theorem State.advanceInto_pq (b n : Nat) : (s.advanceInto b n).pq = s.pq := rfl
@[simp] theorem State.advanceInto_fq (b n : Nat) : (s.advanceInto b n).fq = s.fq := rfl
@[simp] theorem State.advanceInto_trace (b n : Nat) : (s.advanceInto b n).trace = s.trace := rfl
@[simp] theorem State.advanceInto_busResp (b n : Nat) : (s.advanceInto b n).busResp = s.busResp := rfl
@[simp] theorem State.advanceInto_sinkReady (b n : Nat) : (s.advanceInto b n).sinkReady = s.sinkReady := rfl
@[simp] theorem State.advanceInto_schedule (b n : Nat) : (s.advanceInto b n).schedule = s.schedule := rfl
@[simp] theorem State.advanceInto_fillWait (b n : Nat) : (s.advanceInto b n).fillWait = s.fillWait := rfl
@[simp] theorem State.advanceInto_draws (b n : Nat) : (s.advanceInto b n).draws = s.draws := rfl

/-! ### `State.fillPass` (R100) -/

@[simp] theorem State.fillPass_cfg (b : Nat) : (s.fillPass b).cfg = s.cfg := rfl
@[simp] theorem State.fillPass_synth (b : Nat) :
    (s.fillPass b).synth = (advance s.cfg.variant s.masterGain s.cfg.bufFrames.toNat s.synth).2 := rfl
@[simp] theorem State.fillPass_freqArg (b : Nat) : (s.fillPass b).freqArg = s.freqArg := rfl
@[simp] theorem State.fillPass_volArg (b : Nat) : (s.fillPass b).volArg = s.volArg := rfl
@[simp] theorem State.fillPass_masterGain (b : Nat) : (s.fillPass b).masterGain = s.masterGain := rfl
@[simp] theorem State.fillPass_running (b : Nat) : (s.fillPass b).running = s.running := rfl
@[simp] theorem State.fillPass_sticky (b : Nat) : (s.fillPass b).sticky = s.sticky := rfl
@[simp] theorem State.fillPass_errCause (b : Nat) : (s.fillPass b).errCause = s.errCause := rfl
@[simp] theorem State.fillPass_errInfo (b : Nat) : (s.fillPass b).errInfo = s.errInfo := rfl
@[simp] theorem State.fillPass_errCount (b : Nat) : (s.fillPass b).errCount = s.errCount := rfl
@[simp] theorem State.fillPass_fillCount (b : Nat) : (s.fillPass b).fillCount = s.fillCount + 1 := rfl
@[simp] theorem State.fillPass_fillTime (b : Nat) : (s.fillPass b).fillTime = Config.freeWord s.draws := rfl
@[simp] theorem State.fillPass_fillTimeHeld (b : Nat) : (s.fillPass b).fillTimeHeld = true := rfl
@[simp] theorem State.fillPass_mem (b : Nat) : (s.fillPass b).mem = (s.advanceInto b s.cfg.bufFrames.toNat).mem := rfl
@[simp] theorem State.fillPass_pq (b : Nat) : (s.fillPass b).pq = s.pq ++ [b] := rfl
@[simp] theorem State.fillPass_fq (b : Nat) : (s.fillPass b).fq = s.fq := rfl
@[simp] theorem State.fillPass_trace (b : Nat) : (s.fillPass b).trace = s.trace := rfl
@[simp] theorem State.fillPass_busResp (b : Nat) : (s.fillPass b).busResp = s.busResp := rfl
@[simp] theorem State.fillPass_sinkReady (b : Nat) : (s.fillPass b).sinkReady = s.sinkReady := rfl
@[simp] theorem State.fillPass_schedule (b : Nat) : (s.fillPass b).schedule = s.schedule := rfl
@[simp] theorem State.fillPass_fillWait (b : Nat) : (s.fillPass b).fillWait = s.fillWait := rfl
@[simp] theorem State.fillPass_draws (b : Nat) : (s.fillPass b).draws = s.draws + 1 := rfl

/-! ### `State.dispose` (R92) -/

@[simp] theorem State.dispose_cfg : s.dispose.cfg = s.cfg := rfl
@[simp] theorem State.dispose_synth : s.dispose.synth = Synth.zero := rfl
@[simp] theorem State.dispose_freqArg : s.dispose.freqArg = s.freqArg := rfl
@[simp] theorem State.dispose_volArg : s.dispose.volArg = s.volArg := rfl
@[simp] theorem State.dispose_masterGain : s.dispose.masterGain = s.masterGain := rfl
@[simp] theorem State.dispose_running : s.dispose.running = false := rfl
@[simp] theorem State.dispose_sticky : s.dispose.sticky = s.sticky := rfl
@[simp] theorem State.dispose_errCause : s.dispose.errCause = s.errCause := rfl
@[simp] theorem State.dispose_errInfo : s.dispose.errInfo = s.errInfo := rfl
@[simp] theorem State.dispose_errCount : s.dispose.errCount = s.errCount := rfl
@[simp] theorem State.dispose_fillCount : s.dispose.fillCount = s.fillCount := rfl
@[simp] theorem State.dispose_fillTime : s.dispose.fillTime = s.fillTime := rfl
@[simp] theorem State.dispose_fillTimeHeld : s.dispose.fillTimeHeld = s.fillTimeHeld := rfl
@[simp] theorem State.dispose_mem : s.dispose.mem = s.mem.clearRange bufBase (windowEnd s.cfg) := rfl
@[simp] theorem State.dispose_pq : s.dispose.pq = [] := rfl
@[simp] theorem State.dispose_fq : s.dispose.fq = [] := rfl
@[simp] theorem State.dispose_trace : s.dispose.trace = s.trace := rfl
@[simp] theorem State.dispose_busResp : s.dispose.busResp = s.busResp := rfl
@[simp] theorem State.dispose_sinkReady : s.dispose.sinkReady = s.sinkReady := rfl
@[simp] theorem State.dispose_schedule : s.dispose.schedule = s.schedule := rfl
@[simp] theorem State.dispose_fillWait : s.dispose.fillWait = s.fillWait := rfl
@[simp] theorem State.dispose_draws : s.dispose.draws = s.draws := rfl

/-! ### `State.rejectTxn` (R45) -/

@[simp] theorem State.rejectTxn_cfg (a : Offset) : (s.rejectTxn a).cfg = s.cfg := rfl
@[simp] theorem State.rejectTxn_synth (a : Offset) : (s.rejectTxn a).synth = s.synth := rfl
@[simp] theorem State.rejectTxn_freqArg (a : Offset) : (s.rejectTxn a).freqArg = s.freqArg := rfl
@[simp] theorem State.rejectTxn_volArg (a : Offset) : (s.rejectTxn a).volArg = s.volArg := rfl
@[simp] theorem State.rejectTxn_masterGain (a : Offset) : (s.rejectTxn a).masterGain = s.masterGain := rfl
@[simp] theorem State.rejectTxn_running (a : Offset) : (s.rejectTxn a).running = s.running := rfl
@[simp] theorem State.rejectTxn_sticky (a : Offset) : (s.rejectTxn a).sticky = s.sticky.set .busAccess := rfl
@[simp] theorem State.rejectTxn_errCause (a : Offset) : (s.rejectTxn a).errCause = .busAccess := rfl
@[simp] theorem State.rejectTxn_errInfo (a : Offset) : (s.rejectTxn a).errInfo = a.setWidth 32 := rfl
@[simp] theorem State.rejectTxn_errCount (a : Offset) : (s.rejectTxn a).errCount = s.errCount + 1 := rfl
@[simp] theorem State.rejectTxn_fillCount (a : Offset) : (s.rejectTxn a).fillCount = s.fillCount := rfl
@[simp] theorem State.rejectTxn_fillTime (a : Offset) : (s.rejectTxn a).fillTime = s.fillTime := rfl
@[simp] theorem State.rejectTxn_fillTimeHeld (a : Offset) : (s.rejectTxn a).fillTimeHeld = s.fillTimeHeld := rfl
@[simp] theorem State.rejectTxn_mem (a : Offset) : (s.rejectTxn a).mem = s.mem := rfl
@[simp] theorem State.rejectTxn_pq (a : Offset) : (s.rejectTxn a).pq = s.pq := rfl
@[simp] theorem State.rejectTxn_fq (a : Offset) : (s.rejectTxn a).fq = s.fq := rfl
@[simp] theorem State.rejectTxn_trace (a : Offset) : (s.rejectTxn a).trace = s.trace := rfl
@[simp] theorem State.rejectTxn_busResp (a : Offset) : (s.rejectTxn a).busResp = .error := rfl
@[simp] theorem State.rejectTxn_sinkReady (a : Offset) : (s.rejectTxn a).sinkReady = s.sinkReady := rfl
@[simp] theorem State.rejectTxn_schedule (a : Offset) : (s.rejectTxn a).schedule = s.schedule := rfl
@[simp] theorem State.rejectTxn_fillWait (a : Offset) : (s.rejectTxn a).fillWait = s.fillWait := rfl
@[simp] theorem State.rejectTxn_draws (a : Offset) : (s.rejectTxn a).draws = s.draws := rfl

/-! ### `State.consumeStep` (R98) -/

@[simp] theorem State.consumeStep_cfg (b : Nat) (rest : List Nat) : (s.consumeStep b rest).cfg = s.cfg := rfl
@[simp] theorem State.consumeStep_synth (b : Nat) (rest : List Nat) : (s.consumeStep b rest).synth = s.synth := rfl
@[simp] theorem State.consumeStep_freqArg (b : Nat) (rest : List Nat) :
    (s.consumeStep b rest).freqArg = s.freqArg := rfl
@[simp] theorem State.consumeStep_volArg (b : Nat) (rest : List Nat) : (s.consumeStep b rest).volArg = s.volArg := rfl
@[simp] theorem State.consumeStep_masterGain (b : Nat) (rest : List Nat) :
    (s.consumeStep b rest).masterGain = s.masterGain := rfl
@[simp] theorem State.consumeStep_running (b : Nat) (rest : List Nat) :
    (s.consumeStep b rest).running = s.running := rfl
@[simp] theorem State.consumeStep_sticky (b : Nat) (rest : List Nat) : (s.consumeStep b rest).sticky = s.sticky := rfl
@[simp] theorem State.consumeStep_errCause (b : Nat) (rest : List Nat) :
    (s.consumeStep b rest).errCause = s.errCause := rfl
@[simp] theorem State.consumeStep_errInfo (b : Nat) (rest : List Nat) :
    (s.consumeStep b rest).errInfo = s.errInfo := rfl
@[simp] theorem State.consumeStep_errCount (b : Nat) (rest : List Nat) :
    (s.consumeStep b rest).errCount = s.errCount := rfl
@[simp] theorem State.consumeStep_fillCount (b : Nat) (rest : List Nat) :
    (s.consumeStep b rest).fillCount = s.fillCount := rfl
@[simp] theorem State.consumeStep_fillTime (b : Nat) (rest : List Nat) :
    (s.consumeStep b rest).fillTime = s.fillTime := rfl
@[simp] theorem State.consumeStep_fillTimeHeld (b : Nat) (rest : List Nat) :
    (s.consumeStep b rest).fillTimeHeld = s.fillTimeHeld := rfl
@[simp] theorem State.consumeStep_mem (b : Nat) (rest : List Nat) : (s.consumeStep b rest).mem = s.mem := rfl
@[simp] theorem State.consumeStep_pq (b : Nat) (rest : List Nat) : (s.consumeStep b rest).pq = rest := rfl
@[simp] theorem State.consumeStep_fq (b : Nat) (rest : List Nat) : (s.consumeStep b rest).fq = s.fq ++ [b] := rfl
@[simp] theorem State.consumeStep_trace (b : Nat) (rest : List Nat) :
    (s.consumeStep b rest).trace = s.trace ++ [.play b (s.bufferFrames b)] := rfl
@[simp] theorem State.consumeStep_busResp (b : Nat) (rest : List Nat) :
    (s.consumeStep b rest).busResp = s.busResp := rfl
@[simp] theorem State.consumeStep_sinkReady (b : Nat) (rest : List Nat) :
    (s.consumeStep b rest).sinkReady = s.sinkReady := rfl
@[simp] theorem State.consumeStep_schedule (b : Nat) (rest : List Nat) :
    (s.consumeStep b rest).schedule = s.schedule := rfl
@[simp] theorem State.consumeStep_fillWait (b : Nat) (rest : List Nat) :
    (s.consumeStep b rest).fillWait = s.fillWait := rfl
@[simp] theorem State.consumeStep_draws (b : Nat) (rest : List Nat) : (s.consumeStep b rest).draws = s.draws := rfl

/-! ### `State.underrunStep` (R99) -/

@[simp] theorem State.underrunStep_cfg : s.underrunStep.cfg = s.cfg := rfl
@[simp] theorem State.underrunStep_synth : s.underrunStep.synth = s.synth := rfl
@[simp] theorem State.underrunStep_freqArg : s.underrunStep.freqArg = s.freqArg := rfl
@[simp] theorem State.underrunStep_volArg : s.underrunStep.volArg = s.volArg := rfl
@[simp] theorem State.underrunStep_masterGain : s.underrunStep.masterGain = s.masterGain := rfl
@[simp] theorem State.underrunStep_running : s.underrunStep.running = s.running := rfl
@[simp] theorem State.underrunStep_sticky : s.underrunStep.sticky = s.sticky.set .underrun := rfl
@[simp] theorem State.underrunStep_errCause : s.underrunStep.errCause = .underrun := rfl
@[simp] theorem State.underrunStep_errInfo : s.underrunStep.errInfo = 0 := rfl
@[simp] theorem State.underrunStep_errCount : s.underrunStep.errCount = s.errCount + 1 := rfl
@[simp] theorem State.underrunStep_fillCount : s.underrunStep.fillCount = s.fillCount := rfl
@[simp] theorem State.underrunStep_fillTime : s.underrunStep.fillTime = s.fillTime := rfl
@[simp] theorem State.underrunStep_fillTimeHeld : s.underrunStep.fillTimeHeld = s.fillTimeHeld := rfl
@[simp] theorem State.underrunStep_mem : s.underrunStep.mem = s.mem := rfl
@[simp] theorem State.underrunStep_pq : s.underrunStep.pq = s.pq := rfl
@[simp] theorem State.underrunStep_fq : s.underrunStep.fq = s.fq := rfl
@[simp] theorem State.underrunStep_trace : s.underrunStep.trace = s.trace ++ [.gap] := rfl
@[simp] theorem State.underrunStep_busResp : s.underrunStep.busResp = s.busResp := rfl
@[simp] theorem State.underrunStep_sinkReady : s.underrunStep.sinkReady = s.sinkReady := rfl
@[simp] theorem State.underrunStep_schedule : s.underrunStep.schedule = s.schedule := rfl
@[simp] theorem State.underrunStep_fillWait : s.underrunStep.fillWait = s.fillWait := rfl
@[simp] theorem State.underrunStep_draws : s.underrunStep.draws = s.draws := rfl

/-! ### Reset (R38) -/

@[simp] theorem State.resetWith_cfg : (State.resetWith cfg lvl es n).cfg = cfg := rfl
@[simp] theorem State.resetWith_synth : (State.resetWith cfg lvl es n).synth = Synth.zero := rfl
@[simp] theorem State.resetWith_freqArg : (State.resetWith cfg lvl es n).freqArg = 0 := rfl
@[simp] theorem State.resetWith_volArg : (State.resetWith cfg lvl es n).volArg = 0 := rfl
@[simp] theorem State.resetWith_masterGain : (State.resetWith cfg lvl es n).masterGain = 0x8000#32 := rfl
@[simp] theorem State.resetWith_running : (State.resetWith cfg lvl es n).running = false := rfl
@[simp] theorem State.resetWith_sticky : (State.resetWith cfg lvl es n).sticky = Sticky.clear := rfl
@[simp] theorem State.resetWith_errCause : (State.resetWith cfg lvl es n).errCause = .none := rfl
@[simp] theorem State.resetWith_errInfo : (State.resetWith cfg lvl es n).errInfo = 0 := rfl
@[simp] theorem State.resetWith_errCount : (State.resetWith cfg lvl es n).errCount = 0 := rfl
@[simp] theorem State.resetWith_fillCount : (State.resetWith cfg lvl es n).fillCount = 0 := rfl
@[simp] theorem State.resetWith_fillTime : (State.resetWith cfg lvl es n).fillTime = Config.freeWord n := rfl
@[simp] theorem State.resetWith_fillTimeHeld : (State.resetWith cfg lvl es n).fillTimeHeld = false := rfl
@[simp] theorem State.resetWith_mem : (State.resetWith cfg lvl es n).mem = [] := rfl
@[simp] theorem State.resetWith_pq : (State.resetWith cfg lvl es n).pq = [] := rfl
@[simp] theorem State.resetWith_fq : (State.resetWith cfg lvl es n).fq = [] := rfl
@[simp] theorem State.resetWith_trace : (State.resetWith cfg lvl es n).trace = [] := rfl
@[simp] theorem State.resetWith_busResp : (State.resetWith cfg lvl es n).busResp = .idle := rfl
@[simp] theorem State.resetWith_sinkReady : (State.resetWith cfg lvl es n).sinkReady = lvl := rfl
@[simp] theorem State.resetWith_schedule : (State.resetWith cfg lvl es n).schedule = es := rfl
@[simp] theorem State.resetWith_fillWait : (State.resetWith cfg lvl es n).fillWait = Config.freeWait n := rfl
@[simp] theorem State.resetWith_draws : (State.resetWith cfg lvl es n).draws = n + 1 := rfl

/-! ### Event bookkeeping of a step -/

@[simp] theorem answer_next (r : BusResp) (t : State) : answer r (.next t) = .next (t.respond r) := rfl

/-- A step answers a next state behind a response only from a next state. -/
theorem answer_eq_next (r : BusResp) (o : Host.Outcome State Fault Refusal) (t : State) (h : answer r o = .next t) :
    ∃ u, o = .next u ∧ t = u.respond r := by
  cases o with
  | next u => exact ⟨u, rfl, by simpa using h.symm⟩
  | fault f => cases h
  | refused f => cases h

end Sys2Proof.Machine
end

