-- ==== Sys2Proof/Laws/Frames.lean ====
section
/-! SUPPORT. The laws of the frames of the buffer RAM (20_memory.md rules R43, R44): what a frame reads after frames are
stored or the RAM is cleared, and where frames lie. -/

namespace Sys2Proof.Machine

/-! ## A frame and its two bytes -/

@[simp] theorem frameBytes_length (p : Sample) : (frameBytes p).length = 2 := rfl

/-- The two bytes of a frame, put together, are the frame (R43). -/
theorem frameBytes_joined (p : Sample) : (p.extractLsb' 8 8 ++ p.extractLsb' 0 8 : BitVec (8 + 8)) = p := by
  apply BitVec.eq_of_getLsbD_eq
  intro i hi
  rw [BitVec.getLsbD_append]
  by_cases h : i < 8
  · simp [h]
  · have h8 : i - 8 < 8 := by omega
    have e : 8 + (i - 8) = i := by omega
    simp [h, h8, e]

@[simp] theorem flatMap_frameBytes_length (fs : List Sample) : (fs.flatMap frameBytes).length = 2 * fs.length := by
  induction fs with
  | nil => rfl
  | cons p fs ih => simp only [List.flatMap_cons, List.length_append, frameBytes_length, ih, List.length_cons]; omega

theorem flatMap_frameBytes_low (fs : List Sample) (k : Nat) (h : k < fs.length) :
    (fs.flatMap frameBytes).getD (2 * k) unlistedByte = (fs.getD k 0).extractLsb' 0 8 := by
  induction fs generalizing k with
  | nil => simp at h
  | cons p fs ih =>
    cases k with
    | zero => simp [frameBytes]
    | succ k =>
      have : 2 * (k + 1) = 2 * k + 1 + 1 := by omega
      rw [this]
      simpa [frameBytes] using ih k (by simpa using h)

theorem flatMap_frameBytes_high (fs : List Sample) (k : Nat) (h : k < fs.length) :
    (fs.flatMap frameBytes).getD (2 * k + 1) unlistedByte = (fs.getD k 0).extractLsb' 8 8 := by
  induction fs generalizing k with
  | nil => simp at h
  | cons p fs ih =>
    cases k with
    | zero => simp [frameBytes]
    | succ k =>
      have : 2 * (k + 1) + 1 = 2 * k + 1 + 1 + 1 := by omega
      rw [this]
      simpa [frameBytes] using ih k (by simpa using h)

/-! ## Reading frames back -/

/-- A frame of a stored block reads as stored. -/
theorem Memory.readFrame_writeBlock_inside (m : Memory) (base : Nat) (fs : List Sample) (k : Nat) (h : k < fs.length) :
    (m.writeBlock base (fs.flatMap frameBytes)).readFrame (base + 2 * k) = fs.getD k 0 := by
  unfold Memory.readFrame
  rw [Memory.read_writeBlock_inside _ _ _ _ (by omega) (by rw [flatMap_frameBytes_length]; omega),
    Memory.read_writeBlock_inside _ _ _ _ (by omega) (by rw [flatMap_frameBytes_length]; omega)]
  have e1 : base + 2 * k + 1 - base = 2 * k + 1 := by omega
  have e2 : base + 2 * k - base = 2 * k := by omega
  rw [e1, e2, flatMap_frameBytes_low fs k h, flatMap_frameBytes_high fs k h]
  exact frameBytes_joined _

/-- A frame outside a stored block reads as before. -/
theorem Memory.readFrame_writeBlock_outside (m : Memory) (base : Nat) (bs : List Byte) (a : Nat)
    (h : a + 2 ≤ base ∨ base + bs.length ≤ a) : (m.writeBlock base bs).readFrame a = m.readFrame a := by
  unfold Memory.readFrame
  rw [Memory.read_writeBlock_outside _ _ _ _ (by omega), Memory.read_writeBlock_outside _ _ _ _ (by omega)]

/-- A frame of a cleared range reads 0. -/
theorem Memory.readFrame_clearRange (m : Memory) (lo hi a : Nat) (h1 : lo ≤ a) (h2 : a + 1 < hi) :
    (m.clearRange lo hi).readFrame a = 0 := by
  unfold Memory.readFrame
  rw [Memory.read_clearRange_inside _ _ _ _ ⟨by omega, h2⟩, Memory.read_clearRange_inside _ _ _ _ ⟨h1, by omega⟩]
  rfl

/-! ## Where frames lie -/

theorem frameAddr_eq (cfg : Config) (b k : Nat) : frameAddr cfg b k = frameAddr cfg b 0 + 2 * k := by
  simp only [frameAddr]; omega

/-- Different frames do not overlap. -/
theorem frameAddr_buffer (cfg : Config) (b : Nat) :
    frameAddr cfg (b + 1) 0 = frameAddr cfg b 0 + 2 * cfg.bufFrames.toNat := by
  simp only [frameAddr, Nat.add_mul]; omega

theorem frameAddr_mono (cfg : Config) {b b' : Nat} (h : b < b') :
    frameAddr cfg b 0 + 2 * cfg.bufFrames.toNat ≤ frameAddr cfg b' 0 := by
  have : (b + 1) * cfg.bufFrames.toNat ≤ b' * cfg.bufFrames.toNat := Nat.mul_le_mul_right _ h
  simp only [frameAddr, Nat.add_mul] at *
  omega

/-- A buffer of the build lies in the buffer window (R41, R44). -/
theorem frameAddr_in_window (cfg : Config) {b : Nat} (h : b < cfg.numBuf.toNat) :
    bufBase ≤ frameAddr cfg b 0 ∧ frameAddr cfg b 0 + 2 * cfg.bufFrames.toNat ≤ windowEnd cfg := by
  have : (b + 1) * cfg.bufFrames.toNat ≤ cfg.numBuf.toNat * cfg.bufFrames.toNat := Nat.mul_le_mul_right _ h
  simp only [frameAddr, windowEnd, Nat.add_mul, Nat.mul_assoc] at *
  omega

/-! ## Storing frames into a buffer -/

/-- What was stored into a buffer reads back (R91, R93, R100). -/
theorem State.storeFrames_frame_inside (s : State) (b : Nat) (fs : List Sample) (k : Nat) (h : k < fs.length) :
    (s.storeFrames b fs).frame b k = fs.getD k 0 := by
  show Memory.readFrame _ (frameAddr s.cfg b k) = _
  rw [frameAddr_eq]
  exact Memory.readFrame_writeBlock_inside _ _ _ _ h

/-- Frames after the stored ones are unchanged (R93). -/
theorem State.storeFrames_frame_after (s : State) (b : Nat) (fs : List Sample) (k : Nat) (h : fs.length ≤ k) :
    (s.storeFrames b fs).frame b k = s.frame b k := by
  show Memory.readFrame _ (frameAddr s.cfg b k) = Memory.readFrame _ (frameAddr s.cfg b k)
  rw [frameAddr_eq]
  exact Memory.readFrame_writeBlock_outside _ _ _ _ (Or.inr (by rw [flatMap_frameBytes_length]; omega))

/-- The other buffers are unchanged. -/
theorem State.storeFrames_frame_other (s : State) (b b' : Nat) (fs : List Sample) (k : Nat)
    (hfs : fs.length ≤ s.cfg.bufFrames.toNat) (hk : k < s.cfg.bufFrames.toNat) (hb : b' ≠ b) :
    (s.storeFrames b fs).frame b' k = s.frame b' k := by
  show Memory.readFrame _ (frameAddr s.cfg b' k) = Memory.readFrame _ (frameAddr s.cfg b' k)
  apply Memory.readFrame_writeBlock_outside
  rw [frameAddr_eq, flatMap_frameBytes_length]
  rcases Nat.lt_or_gt_of_ne hb with h | h
  · have := frameAddr_mono s.cfg h
    omega
  · have := frameAddr_mono s.cfg h
    omega

/-- Every byte outside the stored frames reads as before. -/
theorem State.storeFrames_read_outside (s : State) (b : Nat) (fs : List Sample) (a : Nat)
    (h : a < frameAddr s.cfg b 0 ∨ frameAddr s.cfg b 0 + 2 * fs.length ≤ a) :
    (s.storeFrames b fs).mem.read a = s.mem.read a :=
  Memory.read_writeBlock_outside _ _ _ _ (by rwa [flatMap_frameBytes_length])

@[simp] theorem State.bufferFrames_length (s : State) (b : Nat) : (s.bufferFrames b).length = s.cfg.bufFrames.toNat := by
  simp [State.bufferFrames]

end Sys2Proof.Machine
end

