-- ==== Sys2Proof/Laws/Step.lean ====
section
/-! SUPPORT. What a step can do, said once: the register map as an inversion, and one inversion lemma for each function
that a step goes through. Later proofs cite these instead of unfolding the step. -/

namespace Sys2Proof.Machine

/-! ## The register map (R33) -/

/-- Every register is found at its offset. -/
theorem placeAt_regOffset (cfg : Config) (r : Reg) : placeAt cfg (BitVec.ofNat 16 (regOffset r)) = .reg r := by
  cases r <;> rfl

/-- An offset names a register only if it is the register's. -/
theorem eq_of_placeAt_reg {cfg : Config} {a : Offset} {r : Reg} (h : placeAt cfg a = .reg r) :
    a = BitVec.ofNat 16 (regOffset r) := by
  unfold placeAt at h
  split at h
  · rename_i r' hr
    have hp := List.find?_some hr
    simp only [beq_iff_eq] at hp
    cases h
    apply BitVec.eq_of_toNat_eq
    rw [← hp]
    cases r <;> rfl
  · split at h <;> cases h

/-- The offsets of the buffer window (R41). -/
theorem placeAt_window_bounds {cfg : Config} {a : Offset} (h : placeAt cfg a = .window) :
    bufBase ≤ a.toNat ∧ a.toNat < windowEnd cfg := by
  unfold placeAt at h
  split at h
  · cases h
  · split at h
    · assumption
    · cases h

/-- An admitted write at a register's offset is a write of that register. -/
theorem admitted_reg (r : Reg) : admitted (BitVec.ofNat 16 (regOffset r)) .word = true := by
  cases r <;> rfl

theorem admitted_iff (a : Offset) (n : AccessSize) : admitted a n = true ↔ n = .word ∧ a.toNat % 4 = 0 := by
  cases n <;> simp [admitted, AccessSize.bytes]

/-! ## Commands -/

/-- Every command completes in every state: an error is a step that records itself (R86, R114). -/
theorem exec_total (i : Instr) (s : State) : ∃ t, exec i s = .next t := by
  cases i with
  | nop => exact ⟨_, rfl⟩
  | trigger => exact ⟨_, rfl⟩
  | setVolume => exact ⟨_, rfl⟩
  | start => simp only [exec, execStart]; split <;> [skip; split] <;> exact ⟨_, rfl⟩
  | shutdown => simp only [exec, execShutdown]; split <;> exact ⟨_, rfl⟩
  | generate b n => simp only [exec, execGenerate]; split <;> [skip; split] <;> exact ⟨_, rfl⟩

/-- What a command can do: one of these and nothing else. -/
theorem exec_cases {i : Instr} {s t : State} (h : exec i s = .next t) :
    (i = .nop ∧ t = s) ∨
    (i = .trigger ∧ t = s.setSynth (triggered s.cfg.variant s.freqArg s.volArg)) ∨
    (i = .setVolume ∧ t = s.setSynth { s.synth with volume := s.volArg }) ∨
    (i = .start ∧ s.running = true ∧ t = s.raiseError .startWhileRunning (encode .start)) ∨
    (i = .start ∧ s.running = false ∧ s.sinkReady = false ∧ t = s.raiseError .initFail (encode .start)) ∨
    (i = .start ∧ s.running = false ∧ s.sinkReady = true ∧ t = { s.prime with running := true }) ∨
    (i = .shutdown ∧ s.running = true ∧ t = s.dispose) ∨
    (i = .shutdown ∧ s.running = false ∧ t = s) ∨
    (∃ b n, i = .generate b n ∧ s.running = true ∧ t = s.raiseError .cmdWhileRunning (encode i)) ∨
    (∃ b n, i = .generate b n ∧ s.running = false ∧ (s.cfg.numBuf.toNat ≤ b ∨ s.cfg.bufFrames.toNat < n) ∧
      t = s.raiseError .badArgument (encode i)) ∨
    (∃ b n, i = .generate b n ∧ s.running = false ∧ b < s.cfg.numBuf.toNat ∧ n ≤ s.cfg.bufFrames.toNat ∧
      t = s.advanceInto b n) := by
  cases i with
  | nop => cases h; simp
  | trigger => cases h; simp
  | setVolume => cases h; simp
  | start =>
    cases hr : s.running <;> cases hs : s.sinkReady <;> simp only [exec, execStart, hr, hs] at h <;> cases h <;> simp
  | shutdown =>
    cases hr : s.running <;> simp only [exec, execShutdown, hr] at h <;> cases h <;> simp
  | generate b n =>
    cases hr : s.running
    · simp only [exec, execGenerate, hr, Bool.false_eq_true, if_false] at h
      split at h
      · rename_i hb
        cases h
        simp [hb]
      · rename_i hb
        cases h
        have h2 : b < s.cfg.numBuf.toNat ∧ n ≤ s.cfg.bufFrames.toNat := by omega
        simp [h2.1, h2.2]
    · simp only [exec, execGenerate, hr, if_true] at h
      cases h
      simp

/-- What a written command word can do (R86). -/
theorem execWord_cases {w : Word} {s t : State} (h : execWord w s = .next t) :
    (∃ i, decode w = .command i ∧ exec i s = .next t) ∨
    (∃ r, decode w = .reject r ∧ t = s.raiseError (rejectCode r) w) := by
  unfold execWord at h
  split at h
  · rename_i i hd
    exact .inl ⟨i, hd, h⟩
  · rename_i r hd
    cases h
    exact .inr ⟨r, hd, rfl⟩

/-! ## Host transactions -/

/-- What an admitted write can do (R95). -/
theorem writePlace_cases {p : Place} {w : Word} {s t : State} (h : writePlace p w s = .next t) :
    (p = .reg .cmd ∧ execWord w s = .next t) ∨
    (p = .reg .status ∧ t = s.clearSticky w) ∨
    (p = .reg .freqArg ∧ t = { s with freqArg := warl freqMax w }) ∨
    (p = .reg .volArg ∧ t = { s with volArg := warl volOne w }) ∨
    (p = .reg .masterGain ∧ t = { s with masterGain := warl volOne w }) ∨
    (p ≠ .reg .cmd ∧ p ≠ .reg .status ∧ p ≠ .reg .freqArg ∧ p ≠ .reg .volArg ∧ p ≠ .reg .masterGain ∧ t = s) := by
  cases p with
  | reg r => cases r <;> simp_all [writePlace]
  | window => simp_all [writePlace]
  | unmapped => simp_all [writePlace]

/-- What a host transaction can do (R45, R94, R95). -/
theorem hostStep_cases {x : Txn} {s t : State} (h : hostStep x s = .next t) :
    (∃ a n, (x = .read a n ∨ ∃ w, x = .write a n w) ∧ admitted a n = false ∧ t = s.rejectTxn a) ∨
    (∃ a, x = .read a .word ∧ admitted a .word = true ∧
      t = (s.afterRead a).respond (.data (s.readValue a))) ∨
    (∃ a w u, x = .write a .word w ∧ admitted a .word = true ∧ writePlace (placeAt s.cfg a) w s = .next u ∧
      t = u.respond .done) := by
  cases x with
  | read a n =>
    cases ha : admitted a n <;> simp only [hostStep, ha] at h <;> cases h
    · exact .inl ⟨a, n, .inl rfl, ha, rfl⟩
    · obtain ⟨rfl, _⟩ := (admitted_iff a n).1 ha
      exact .inr (.inl ⟨a, rfl, ha, rfl⟩)
  | write a n w =>
    cases ha : admitted a n <;> simp only [hostStep, ha] at h
    · cases h
      exact .inl ⟨a, n, .inr ⟨w, rfl⟩, ha, rfl⟩
    · obtain ⟨u, hu, ht⟩ := answer_eq_next _ _ _ h
      obtain ⟨rfl, _⟩ := (admitted_iff a n).1 ha
      exact .inr (.inr ⟨a, w, u, rfl, ha, hu, ht⟩)

/-- A read writes at most the count of draws (R47). -/
theorem State.afterRead_cases (s : State) (a : Offset) :
    s.afterRead a = s ∨ s.afterRead a = { s with draws := s.draws + 1 } := by
  unfold State.afterRead
  split
  · exact .inr rfl
  · exact .inl rfl

/-! ## The sink and the fill engine -/

/-- What the sink's turn can do (R98, R99). -/
theorem sinkStep_cases {s t : State} (h : sinkStep s = .next t) :
    (s.running = false ∧ t = s) ∨
    (s.running = true ∧ s.pq = [] ∧ t = s.underrunStep) ∨
    (∃ b rest, s.running = true ∧ s.pq = b :: rest ∧ b < s.cfg.numBuf.toNat ∧ t = s.consumeStep b rest) := by
  unfold sinkStep at h
  cases hr : s.running <;> simp only [hr, Bool.false_eq_true, if_false, if_true] at h
  · cases h
    simp
  · split at h
    · rename_i hq
      cases h
      exact .inr (.inl ⟨rfl, hq, rfl⟩)
    · rename_i b rest hq
      split at h
      · rename_i hb
        cases h
        exact .inr (.inr ⟨b, rest, rfl, hq, hb, rfl⟩)
      · cases h

/-- What the fill engine's turn can do (R100). -/
theorem fillStep_cases {s t : State} (h : fillStep s = .next t) :
    (s.running = false ∧ t = s) ∨
    (s.running = true ∧ s.fq = [] ∧ t = s) ∨
    (∃ b rest, s.running = true ∧ s.fq = b :: rest ∧ b < s.cfg.numBuf.toNat ∧
      t = State.fillPass { s with fq := rest } b) := by
  unfold fillStep at h
  cases hr : s.running <;> simp only [hr, Bool.false_eq_true, if_false, if_true] at h
  · cases h
    simp
  · split at h
    · rename_i hq
      cases h
      exact .inr (.inl ⟨rfl, hq, rfl⟩)
    · rename_i b rest hq
      split at h
      · rename_i hb
        cases h
        exact .inr (.inr ⟨b, rest, rfl, hq, hb, rfl⟩)
      · cases h

/-! ## One step -/

theorem step_nil {s : State} (h : s.schedule = []) : step s = idleStep s := by
  unfold step
  rw [h]

theorem step_cons {s : State} {e : Event} {rest : List Event} (h : s.schedule = e :: rest) :
    step s = perform e { s with schedule := rest } := by
  unfold step
  rw [h]

/-- With no event given, the sink of a running block steps where no request stands or the fill engine still waits. -/
theorem step_idle_sink {s : State} (h : s.schedule = []) (hr : s.running = true) (hw : s.fq = [] ∨ s.fillWait ≠ 0) :
    step s = sinkStep { s with fillWait := if s.fq = [] then s.fillWait else s.fillWait - 1 } := by
  have hn : s.nextAgent = .sink := if_neg (by tauto)
  rw [step_nil h]
  simp [idleStep, hr, hn]

/-- With no event given, the fill engine of a running block serves a request once its wait is over. -/
theorem step_idle_fill {s : State} (h : s.schedule = []) (hr : s.running = true) (hq : s.fq ≠ []) (hw : s.fillWait = 0) :
    step s = fillStep { s with fillWait := Config.freeWait s.draws } := by
  have hn : s.nextAgent = .fill := if_pos ⟨hq, hw⟩
  rw [step_nil h]
  simp [idleStep, hr, hn]

/-- What a step can do (R50): the next event of the schedule, or, with none, a turn of the sink or the fill engine of a
running block, or nothing. -/
theorem step_cases {s t : State} (h : step s = .next t) :
    (∃ e rest, s.schedule = e :: rest ∧ perform e { s with schedule := rest } = .next t) ∨
    (s.schedule = [] ∧ s.running = true ∧ ∃ w,
      (s.nextAgent = .sink ∧ sinkStep { s with fillWait := w } = .next t) ∨
      (s.nextAgent = .fill ∧ fillStep { s with fillWait := w } = .next t)) ∨
    (s.schedule = [] ∧ s.running = false ∧ t = s) := by
  by_cases hs : s.schedule = []
  · rw [step_nil hs] at h
    unfold idleStep at h
    by_cases hr : s.running = true
    · rw [if_pos hr] at h
      split at h
      · rename_i ha
        exact .inr (.inl ⟨hs, hr, _, .inl ⟨ha, h⟩⟩)
      · rename_i ha
        exact .inr (.inl ⟨hs, hr, _, .inr ⟨ha, h⟩⟩)
    · rw [if_neg hr] at h
      cases h
      exact .inr (.inr ⟨hs, by simpa using hr, rfl⟩)
  · obtain ⟨e, rest, hs⟩ := List.exists_cons_of_ne_nil hs
    exact .inl ⟨e, rest, hs, by rwa [step_cons hs] at h⟩

/-- A stopped block with nothing given keeps its state (R124). -/
theorem step_of_stopped {s : State} (h : s.schedule = []) (hr : s.running = false) : step s = .next s := by
  rw [step_nil h]
  simp [idleStep, hr]

/-- What one event can do, in the words of the lemmas above. -/
theorem perform_cases {e : Event} {s t : State} (h : perform e s = .next t) :
    (∃ x, e = .host x ∧ hostStep x s = .next t) ∨
    (e = .sink ∧ sinkStep s = .next t) ∨
    (e = .fill ∧ fillStep s = .next t) ∨
    (e = .reset ∧ t = s.afterReset) ∨
    (∃ level, e = .sinkReady level ∧ t = { s with sinkReady := level }) := by
  cases e with
  | host x => exact .inl ⟨x, rfl, h⟩
  | sink => exact .inr (.inl ⟨rfl, h⟩)
  | fill => exact .inr (.inr (.inl ⟨rfl, h⟩))
  | reset => cases h; simp
  | sinkReady level => cases h; simp

end Sys2Proof.Machine
end

