-- ==== Sys2Proof/Laws/Bus.lean ====
section
/-! SUPPORT. What one host transaction does at each kind of place (42_bus_and_output.md rules R94, R95), and that none stops
the block. -/

namespace Sys2Proof.Machine

/-! ## Registers -/

theorem admitted_of_aligned {a : Offset} (h : a.toNat % 4 = 0) : admitted a .word = true := (admitted_iff _ _).2 ⟨rfl, h⟩

/-- An admitted write at a register's offset (R95). -/
theorem hostStep_write_reg (s : State) (r : Reg) (a : Offset) (w : Word) (ha : a = BitVec.ofNat 16 (regOffset r)) :
    hostStep (.write a .word w) s = answer .done (writePlace (.reg r) w s) := by
  subst ha
  simp [hostStep, admitted_reg, placeAt_regOffset]

/-- An admitted read at a register's offset, for every register but a FILL_TIME that no fill pass has written (R94). -/
theorem hostStep_read_reg (s : State) (r : Reg) (a : Offset) (ha : a = BitVec.ofNat 16 (regOffset r))
    (hr : r ≠ .fillTime ∨ s.fillTimeHeld = true) :
    hostStep (.read a .word) s = .next { s with busResp := .data (s.readReg r) } := by
  subst ha
  have h : s.afterRead (BitVec.ofNat 16 (regOffset r)) = s := by
    unfold State.afterRead
    rw [if_neg]
    rw [placeAt_regOffset]
    rintro ⟨h1, h2⟩
    cases h1
    simp [h2] at hr
  simp only [hostStep, admitted_reg, State.readValue, placeAt_regOffset, h]
  rfl

/-! ## Above the registers -/

/-- Every register lies below 0x44 (R41). -/
theorem regOffset_lt (r : Reg) : regOffset r < 0x44 := by cases r <;> decide

/-- The place of an offset above the registers (R41, R48). -/
theorem placeAt_above (cfg : Config) {a : Offset} (h : 0x44 ≤ a.toNat) :
    placeAt cfg a = if bufBase ≤ a.toNat ∧ a.toNat < windowEnd cfg then .window else .unmapped := by
  have hnone : allRegs.find? (fun r => regOffset r == a.toNat) = none := by
    rw [List.find?_eq_none]
    intro r _ hr
    have := regOffset_lt r
    simp only [beq_iff_eq] at hr
    omega
  unfold placeAt
  rw [hnone]

/-- An admitted read above the registers (R94). -/
theorem hostStep_read_above (s : State) {a : Offset} (h4 : a.toNat % 4 = 0) (h : 0x44 ≤ a.toNat) :
    hostStep (.read a .word) s = .next { s with busResp := .data (s.readValue a) } := by
  have ha : s.afterRead a = s := by
    unfold State.afterRead
    rw [if_neg]
    rintro ⟨h1, -⟩
    rw [placeAt_above _ h] at h1
    split at h1 <;> cases h1
  simp only [hostStep, admitted_of_aligned h4, ha]
  rfl

/-! ## The buffer window -/

/-- The two bytes of a frame in memory (R43, R44). -/
theorem State.frame_bytes (s : State) (b k : Nat) :
    s.mem.read (frameAddr s.cfg b k) = (s.frame b k).extractLsb' 0 8 ∧
      s.mem.read (frameAddr s.cfg b k + 1) = (s.frame b k).extractLsb' 8 8 := by
  unfold State.frame Memory.readFrame
  constructor
  · apply BitVec.eq_of_getLsbD_eq
    intro i hi
    have : ∀ x y : Byte, (x ++ y : BitVec (8 + 8)).getLsbD (0 + i) = y.getLsbD i := by
      intro x y
      rw [BitVec.getLsbD_append]
      simp [hi]
    rw [BitVec.getLsbD_extractLsb', this]
    simp [hi]
  · apply BitVec.eq_of_getLsbD_eq
    intro i hi
    have : ∀ x y : Byte, (x ++ y : BitVec (8 + 8)).getLsbD (8 + i) = x.getLsbD i := by
      intro x y
      rw [BitVec.getLsbD_append]
      simp
    rw [BitVec.getLsbD_extractLsb', this]
    simp [hi]

/-- Frame f of the whole RAM lies at `0x1000 + 2f` (R44). -/
theorem frameAddr_ram (cfg : Config) (f : Nat) :
    frameAddr cfg (f / cfg.bufFrames.toNat) (f % cfg.bufFrames.toNat) = 0x1000 + 2 * f := by
  unfold frameAddr bufBase
  rw [Nat.mul_comm (f / cfg.bufFrames.toNat), Nat.div_add_mod]

/-- The window's size: at most 4 buffers of 2048 frames, and a whole number of 32-bit words (R41, R44). -/
theorem window_size (cfg : Config) :
    cfg.numBuf.toNat * cfg.bufFrames.toNat ≤ 8192 ∧ cfg.numBuf.toNat * cfg.bufFrames.toNat % 2 = 0 := by
  cases cfg.numBuf <;> cases cfg.bufFrames <;> decide

/-- BUF_FRAMES is even, so the two frames of a window word belong to one buffer (R44). -/
theorem window_word_one_buffer (cfg : Config) (j : Nat) :
    (2 * j + 1) / cfg.bufFrames.toNat = 2 * j / cfg.bufFrames.toNat := by
  obtain ⟨h, e⟩ : ∃ h, cfg.bufFrames.toNat = 2 * h := by
    cases cfg.bufFrames
    · exact ⟨512, rfl⟩
    · exact ⟨1024, rfl⟩
  rw [e, ← Nat.div_div_eq_div_mul, ← Nat.div_div_eq_div_mul]
  congr 1
  omega

/-! ## No transaction stops the block -/

/-- An admitted write completes at every place (R114). -/
theorem writePlace_total (p : Place) (w : Word) (s : State) : ∃ t, writePlace p w s = .next t := by
  have hcmd : ∃ t, execWord w s = .next t := by
    unfold execWord
    split
    · exact exec_total _ _
    · exact ⟨_, rfl⟩
  cases p with
  | reg r => cases r <;> first | exact hcmd | exact ⟨_, rfl⟩
  | window => exact ⟨_, rfl⟩
  | unmapped => exact ⟨_, rfl⟩

/-- Every host transaction completes in every state (R114). -/
theorem hostStep_total (x : Txn) (s : State) : ∃ t, hostStep x s = .next t := by
  cases x with
  | read a n =>
    simp only [hostStep]
    split <;> exact ⟨_, rfl⟩
  | write a n w =>
    simp only [hostStep]
    split
    · obtain ⟨t, ht⟩ := writePlace_total (placeAt s.cfg a) w s
      rw [ht]
      exact ⟨_, rfl⟩
    · exact ⟨_, rfl⟩

end Sys2Proof.Machine
end

