-- ==== Sys2Proof/Laws/Ops.lean ====
section
/-! SUPPORT. One spec lemma for each operation the meanings share: ADVANCE into a buffer, a fill pass, priming. -/

namespace Sys2Proof.Machine

/-! ## ADVANCE into a buffer (R93, R100) -/

theorem State.advanceInto_frame (s : State) (b n k : Nat) (h : k < n) :
    (s.advanceInto b n).frame b k = u16 ((advance s.cfg.variant s.masterGain n s.synth).1.getD k 0) := by
  have hlen : k < ((advance s.cfg.variant s.masterGain n s.synth).1.map u16).length := by simpa using h
  have := State.storeFrames_frame_inside (s.setSynth (advance s.cfg.variant s.masterGain n s.synth).2) b _ k hlen
  refine this.trans ?_
  rw [List.getD_eq_getElem _ _ hlen, List.getElem_map, List.getD_eq_getElem]

theorem State.advanceInto_frame_after (s : State) (b n k : Nat) (h : n ≤ k) :
    (s.advanceInto b n).frame b k = s.frame b k :=
  State.storeFrames_frame_after (s.setSynth _) b _ k (by simpa using h)

theorem State.advanceInto_frame_other (s : State) (b b' n k : Nat) (hn : n ≤ s.cfg.bufFrames.toNat)
    (hk : k < s.cfg.bufFrames.toNat) (hb : b' ≠ b) : (s.advanceInto b n).frame b' k = s.frame b' k :=
  State.storeFrames_frame_other (s.setSynth _) b b' _ k (by simpa using hn) hk hb

theorem State.advanceInto_read_outside (s : State) (b n a : Nat)
    (h : a < frameAddr s.cfg b 0 ∨ frameAddr s.cfg b 0 + 2 * n ≤ a) :
    (s.advanceInto b n).mem.read a = s.mem.read a :=
  State.storeFrames_read_outside (s.setSynth _) b _ a (by simpa using h)

theorem State.advanceInto_wf (s : State) (b n : Nat) (h : s.mem.wf) : (s.advanceInto b n).mem.wf :=
  Memory.wf_writeBlock h _ _

/-- ADVANCE into a buffer writes SynthState and Buf, nothing else. -/
theorem State.advanceInto_eq (s : State) (b n : Nat) :
    s.advanceInto b n = { s with synth := (s.advanceInto b n).synth, mem := (s.advanceInto b n).mem } := rfl

/-! ## A fill pass (R91, R100) -/

theorem State.fillPass_frame (s : State) (b k : Nat) (h : k < s.cfg.bufFrames.toNat) :
    (s.fillPass b).frame b k =
      u16 ((advance s.cfg.variant s.masterGain s.cfg.bufFrames.toNat s.synth).1.getD k 0) :=
  s.advanceInto_frame b _ k h

theorem State.fillPass_frame_other (s : State) (b b' k : Nat) (hk : k < s.cfg.bufFrames.toNat) (hb : b' ≠ b) :
    (s.fillPass b).frame b' k = s.frame b' k :=
  s.advanceInto_frame_other b b' _ k (Nat.le_refl _) hk hb

theorem State.fillPass_read_outside (s : State) (b a : Nat)
    (h : a < frameAddr s.cfg b 0 ∨ frameAddr s.cfg b 0 + 2 * s.cfg.bufFrames.toNat ≤ a) :
    (s.fillPass b).mem.read a = s.mem.read a :=
  s.advanceInto_read_outside b _ a h

theorem State.fillPass_wf (s : State) (b : Nat) (h : s.mem.wf) : (s.fillPass b).mem.wf := s.advanceInto_wf b _ h

/-- A fill pass writes SynthState, Buf, PQ, FILL_COUNT and FILL_TIME, and takes one draw. -/
theorem State.fillPass_eq (s : State) (b : Nat) :
    s.fillPass b =
      { s with
        synth := (s.fillPass b).synth
        mem := (s.fillPass b).mem
        pq := s.pq ++ [b]
        fillCount := s.fillCount + 1
        fillTime := Config.freeWord s.draws
        fillTimeHeld := true
        draws := s.draws + 1 } := rfl

/-! ## Priming (R91) -/

/-- The fill passes of priming, as a function of how many buffers have been filled. -/
def primed (s : State) (n : Nat) : State := (List.range n).foldl State.fillPass s

@[simp] theorem primed_zero (s : State) : primed s 0 = s := rfl

theorem primed_succ (s : State) (n : Nat) : primed s (n + 1) = (primed s n).fillPass n := by
  simp [primed, List.range_succ]

theorem State.prime_eq (s : State) : s.prime = primed s s.cfg.numBuf.toNat := rfl

/-- Priming writes what fill passes write, nothing else. -/
theorem primed_fields (s : State) (n : Nat) :
    primed s n =
      { s with
        synth := (primed s n).synth
        mem := (primed s n).mem
        pq := s.pq ++ List.range n
        fillCount := s.fillCount + BitVec.ofNat 32 n
        fillTime := if n = 0 then s.fillTime else Config.freeWord (s.draws + n - 1)
        fillTimeHeld := s.fillTimeHeld || n != 0
        draws := s.draws + n } := by
  induction n with
  | zero => simp
  | succ n ih =>
    rw [primed_succ, State.fillPass_eq, ih]
    simp [List.range_succ, Nat.add_assoc, BitVec.add_assoc, BitVec.ofNat_add]

/-- Priming n buffers advances SynthState by n passes' steps. -/
theorem primed_synth (s : State) (n : Nat) :
    (primed s n).synth = (advance s.cfg.variant s.masterGain (n * s.cfg.bufFrames.toNat) s.synth).2 := by
  induction n with
  | zero => simp
  | succ n ih =>
    rw [primed_succ, State.fillPass_synth, ih, primed_fields]
    simp only [Nat.add_mul, Nat.one_mul]
    rw [advance_add]

/-- A primed buffer holds its part of the ADVANCE, in generation order. -/
theorem primed_frame (s : State) (n b k : Nat) (hb : b < n) (hk : k < s.cfg.bufFrames.toNat) :
    (primed s n).frame b k =
      u16 ((advance s.cfg.variant s.masterGain (n * s.cfg.bufFrames.toNat) s.synth).1.getD
        (b * s.cfg.bufFrames.toNat + k) 0) := by
  induction n with
  | zero => omega
  | succ n ih =>
    have hcfg : (primed s n).cfg = s.cfg := by rw [primed_fields]
    have hgain : (primed s n).masterGain = s.masterGain := by rw [primed_fields]
    have hlen : (advance s.cfg.variant s.masterGain (n * s.cfg.bufFrames.toNat) s.synth).1.length =
        n * s.cfg.bufFrames.toNat := advance_length _ _ _ _
    rw [primed_succ, Nat.add_mul, Nat.one_mul, advance_add]
    rcases Nat.lt_or_eq_of_le (Nat.le_of_lt_succ hb) with h | h
    · have hin : b * s.cfg.bufFrames.toNat + k < n * s.cfg.bufFrames.toNat := by
        have : (b + 1) * s.cfg.bufFrames.toNat ≤ n * s.cfg.bufFrames.toNat := Nat.mul_le_mul_right _ h
        rw [Nat.add_mul] at this
        omega
      rw [State.fillPass_frame_other _ _ _ _ (by rwa [hcfg]) (by omega), ih h,
        List.getD_append _ _ _ _ (by rwa [hlen])]
    · subst h
      rw [State.fillPass_frame _ _ _ (by rwa [hcfg]), hcfg, hgain, primed_synth,
        List.getD_append_right _ _ _ _ (by omega)]
      congr 2
      omega

/-- Priming leaves every byte outside the primed buffers as it was. -/
theorem primed_read_outside (s : State) (n a : Nat) (h : a < bufBase ∨ frameAddr s.cfg n 0 ≤ a) :
    (primed s n).mem.read a = s.mem.read a := by
  induction n with
  | zero => rfl
  | succ n ih =>
    have hcfg : (primed s n).cfg = s.cfg := by rw [primed_fields]
    have hstep := frameAddr_buffer s.cfg n
    have hlow : bufBase ≤ frameAddr s.cfg n 0 := by simp [frameAddr]
    rw [primed_succ, State.fillPass_read_outside _ _ _ (by rw [hcfg]; omega), ih (by omega)]

theorem primed_wf (s : State) (n : Nat) (h : s.mem.wf) : (primed s n).mem.wf := by
  induction n with
  | zero => exact h
  | succ n ih =>
    rw [primed_succ]
    exact State.fillPass_wf _ _ ih

end Sys2Proof.Machine
end

