-- ==== Sys2Proof/Laws/PerInstr.lean ====
section
/-! SUPPORT. Statements made once for each command of the opcode table. -/

namespace Sys2Proof.Laws

/-- `WordSelectsRow`: the word of a well-formed command is a word of the command's row of the opcode map, and of no other
opcode (30_encoding.md rule R63). -/
def WordSelectsRow.Statement (i : Instr) : Prop :=
  i.WellFormed → (opcodeRow i).selects (encode i) = true ∧ opField (encode i) = opcode i

theorem WordSelectsRow.nop : WordSelectsRow.Statement .nop := fun _ => by decide

theorem WordSelectsRow.trigger : WordSelectsRow.Statement .trigger := fun _ => by decide

theorem WordSelectsRow.setVolume : WordSelectsRow.Statement .setVolume := fun _ => by decide

theorem WordSelectsRow.start : WordSelectsRow.Statement .start := fun _ => by decide

theorem WordSelectsRow.shutdown : WordSelectsRow.Statement .shutdown := fun _ => by decide

/-- The mask of format G keeps OP, RSV1 and RSV2 and nothing of the operands. -/
theorem maskG_of_operands (b n : Nat) (hb : b < 4) (hn : n < 4096) :
    BitVec.ofNat 32 (5 * 2 ^ 28 + (b * 2 ^ 16 + n)) &&& 0xFFFCF000#32 = 0x50000000#32 := by
  have e : BitVec.ofNat 32 (5 * 2 ^ 28 + (b * 2 ^ 16 + n)) =
      0x5#4 ++ 0#10 ++ BitVec.ofNat 2 b ++ 0#4 ++ BitVec.ofNat 12 n := by
    apply BitVec.eq_of_toNat_eq
    simp only [BitVec.toNat_append, BitVec.toNat_ofNat, Nat.shiftLeft_eq]
    rw [Nat.mod_eq_of_lt (a := b) (by omega), Nat.mod_eq_of_lt (a := n) (by omega)]
    have h1 : 5 * 2 ^ 28 + (b * 2 ^ 16 + n) < 2 ^ 32 := by omega
    rw [Nat.mod_eq_of_lt h1]
    have l1 : ∀ x y : Nat, y < 4096 → x * 2 ^ 12 ||| y = x * 2 ^ 12 + y := fun x y h => by
      rw [← Nat.shiftLeft_eq, Nat.shiftLeft_add_eq_or_of_lt h]
    have l2 : 20480 ||| b = 20480 + b := by interval_cases b <;> rfl
    simp only [Nat.reducePow, Nat.reduceMod, Nat.reduceMul, Nat.or_zero] at *
    rw [l2, l1 _ _ hn]
    omega
  rw [e]
  apply BitVec.eq_of_getLsbD_eq
  intro i hi
  simp only [BitVec.getLsbD_and, BitVec.getLsbD_append]
  interval_cases i <;> simp

theorem WordSelectsRow.generate (b n : Nat) : WordSelectsRow.Statement (.generate b n) := by
  rintro ⟨hb, hn⟩
  constructor
  · simp only [OpcodeRow.selects, opcodeRow, encode, opcode, operandBits, beq_iff_eq]
    exact maskG_of_operands b n hb hn
  · simp only [opField, field, encode, opcode, operandBits, BitVec.toNat_ofNat]
    omega

end Sys2Proof.Laws
end

