-- ==== Sys2Proof/Laws/Runs.lean ====
section
/-! SUPPORT. What a step does to the events still to come and to the fill requests (10_state.md rule R35, 20_memory.md rule R53),
which is what statements over runs go by. -/

namespace Sys2Proof.Machine

/-- No command writes the schedule, and on a running device a command stops it or leaves FQ alone. -/
theorem exec_queue {i : Instr} {s t : State} (h : exec i s = .next t) :
    t.schedule = s.schedule ∧ (s.running = true → t.running = false ∨ (t.running = true ∧ t.fq = s.fq)) := by
  rcases exec_cases h with ⟨-, rfl⟩ | ⟨-, rfl⟩ | ⟨-, rfl⟩ | ⟨-, -, rfl⟩ | ⟨-, -, -, rfl⟩ | ⟨-, hr, -, rfl⟩ | ⟨-, -, rfl⟩ |
    ⟨-, -, rfl⟩ | ⟨_, _, -, -, rfl⟩ | ⟨_, _, -, -, -, rfl⟩ | ⟨_, _, -, -, -, -, rfl⟩
  case inr.inr.inr.inr.inr.inl => exact ⟨by rw [State.prime_eq, primed_fields], fun h => by simp [hr] at h⟩
  all_goals first
    | exact ⟨rfl, fun h => .inr ⟨h, rfl⟩⟩
    | exact ⟨rfl, fun _ => .inl rfl⟩

/-- No event writes the schedule, and on a running device an event stops it, leaves FQ alone, adds a request at its end, or is a
fill pass that takes its head. -/
theorem perform_queue {e : Event} {s t : State} (h : perform e s = .next t) :
    t.schedule = s.schedule ∧ (s.running = true → t.running = false ∨ (t.running = true ∧
      (t.fq = s.fq ∨ (∃ b, t.fq = s.fq ++ [b]) ∨ (e = .fill ∧ ∃ b, s.fq = b :: t.fq)))) := by
  have same : ∀ {u : State}, u.schedule = s.schedule → u.running = s.running → u.fq = s.fq →
      u.schedule = s.schedule ∧ (s.running = true → u.running = false ∨ (u.running = true ∧
        (u.fq = s.fq ∨ (∃ b, u.fq = s.fq ++ [b]) ∨ (e = .fill ∧ ∃ b, s.fq = b :: u.fq)))) :=
    fun h1 h2 h3 => ⟨h1, fun hr => .inr ⟨h2.trans hr, .inl h3⟩⟩
  rcases perform_cases h with ⟨x, rfl, h⟩ | ⟨rfl, h⟩ | ⟨rfl, h⟩ | ⟨rfl, rfl⟩ | ⟨level, rfl, rfl⟩
  · rcases hostStep_cases h with ⟨a, n, -, -, rfl⟩ | ⟨a, -, -, rfl⟩ | ⟨a, w, u, -, -, hu, rfl⟩
    · exact same rfl rfl rfl
    · rcases s.afterRead_cases a with e | e <;> rw [e] <;> exact same rfl rfl rfl
    · rcases writePlace_cases hu with ⟨-, he⟩ | ⟨-, rfl⟩ | ⟨-, rfl⟩ | ⟨-, rfl⟩ | ⟨-, rfl⟩ | ⟨-, -, -, -, -, rfl⟩
      · rcases execWord_cases he with ⟨i, -, hi⟩ | ⟨r, -, rfl⟩
        · have hq := exec_queue hi
          exact ⟨hq.1, fun hr => (hq.2 hr).imp id fun h => ⟨h.1, .inl h.2⟩⟩
        · exact same rfl rfl rfl
      all_goals exact same rfl rfl rfl
  · rcases sinkStep_cases h with ⟨-, rfl⟩ | ⟨-, -, rfl⟩ | ⟨b, rest, -, -, -, rfl⟩
    · exact same rfl rfl rfl
    · exact same rfl rfl rfl
    · exact ⟨rfl, fun hr => .inr ⟨hr, .inr (.inl ⟨b, rfl⟩)⟩⟩
  · rcases fillStep_cases h with ⟨-, rfl⟩ | ⟨-, -, rfl⟩ | ⟨b, rest, -, hq, -, rfl⟩
    · exact same rfl rfl rfl
    · exact same rfl rfl rfl
    · exact ⟨rfl, fun hr => .inr ⟨hr, .inr (.inr ⟨rfl, b, hq⟩)⟩⟩
  · exact ⟨rfl, fun _ => .inl rfl⟩
  · exact same rfl rfl rfl

/-- A step takes the head off the schedule, and nothing puts an event on it (R53). -/
theorem step_schedule {s t : State} (h : step s = .next t) : t.schedule = s.schedule.tail := by
  rcases step_cases h with ⟨e, rest, hs, h⟩ | ⟨hs, -, w, ⟨-, h⟩ | ⟨-, h⟩⟩ | ⟨hs, -, rfl⟩
  · rw [hs]
    exact (perform_queue h).1
  · rw [hs]
    exact ((perform_queue (e := .sink) h).1).trans hs
  · rw [hs]
    exact ((perform_queue (e := .fill) h).1).trans hs
  · simp [hs]

/-- A run that has ended stays ended: nothing but a host transaction starts the device (R104). -/
theorem runEnded_step {s t : State} (h : s.RunEnded) (hst : step s = .next t) : t.RunEnded := by
  obtain ⟨hx, hr⟩ := h
  refine ⟨fun x hm => hx x (List.mem_of_mem_tail (step_schedule hst ▸ hm)), ?_⟩
  rcases step_cases hst with ⟨e, rest, hs, h⟩ | ⟨-, hr', -⟩ | ⟨-, -, rfl⟩
  · rcases perform_cases h with ⟨x, rfl, -⟩ | ⟨-, h⟩ | ⟨-, h⟩ | ⟨-, rfl⟩ | ⟨level, -, rfl⟩
    · exact absurd (by simp [hs]) (hx x)
    · rcases sinkStep_cases h with ⟨-, rfl⟩ | ⟨h1, -⟩ | ⟨b, r, h1, -⟩
      · exact hr
      · exact absurd (hr.symm.trans h1) (by decide)
      · exact absurd (hr.symm.trans h1) (by decide)
    · rcases fillStep_cases h with ⟨-, rfl⟩ | ⟨h1, -⟩ | ⟨b, r, h1, -⟩
      · exact hr
      · exact absurd (hr.symm.trans h1) (by decide)
      · exact absurd (hr.symm.trans h1) (by decide)
    · rfl
    · exact hr
  · exact absurd (hr.symm.trans hr') (by decide)
  · exact hr

end Sys2Proof.Machine
end

