-- ==== Sys2Proof/Tests/Slice0.lean ====
section
/-! SUPPORT. The model's own tests: the check of ill-formed terms, words written out from the fields of 30_encoding.md rule R61,
worked examples of spec/ (each test names its source), and, for every statement that has hypotheses, a named witness that meets them. -/

namespace Sys2Proof.Machine.Tests

/-! ## Helpers -/

/-- One field of the state a step ends in; `d` where it ends otherwise. -/
def pick {α : Type} (f : State → α) (d : α) : Host.Outcome State Fault Refusal → α
  | .next t => f t
  | _ => d

/-- An admitted write of a word at an offset. -/
def wr (a w : Nat) : Event := .host (.write (BitVec.ofNat 16 a) .word (BitVec.ofNat 32 w))

/-- A build's state after reset with the given events to come. -/
def build (v : Variant) (es : List Event) : State := State.resetWith ⟨v, .three, .f1024⟩ true es 0

/-- `TRIG 220.0, 0.4` up to its TRIGGER: the two argument registers hold what the pseudo-instruction writes (R67). -/
def armed (v : Variant) : State := { build v [] with freqArg := 0x00DC0000#32, volArg := 0x3333#32 }

/-- SynthState as `TRIG 220.0, 0.4` leaves it (R88). -/
def note (v : Variant) : Synth := triggered v 0x00DC0000#32 0x3333#32

/-- A running block whose three buffers, all silent, wait to be played. -/
def primedBlock : State := { State.reset with running := true, pq := [0, 1, 2] }

/-- A running block that has played everything. -/
def drained : State := { State.reset with running := true, fq := [0, 1, 2] }

/-! ## Well-formed terms (R62): the check refuses an operand that does not fit its field -/

theorem test_wellFormed_refuses_buffer_index : (Instr.generate 4 0).wellFormed = false := by decide
theorem test_wellFormed_refuses_count : (Instr.generate 0 4096).wellFormed = false := by decide
theorem test_illFormed_buffer_index : ¬ (Instr.generate 4 0).WellFormed := by decide
theorem test_illFormed_count : ¬ (Instr.generate 0 4096).WellFormed := by decide
theorem test_wellFormed_accepts_largest : (Instr.generate 3 4095).wellFormed = true := by decide

/-- The two forms of the check agree. -/
theorem test_wellFormed_agrees (i : Instr) : i.wellFormed = true ↔ i.WellFormed := by
  cases i <;> simp [Instr.wellFormed, Instr.WellFormed]

/-! ## Decoding: words written out field by field from R61 -/

/-- OP = 0000, RSV = 0. -/
theorem test_decode_nop : decode (0b0000#4 ++ 0#28) = .command .nop := by decide
/-- OP = 0001, RSV = 0. -/
theorem test_decode_trigger : decode (0b0001#4 ++ 0#28) = .command .trigger := by decide
/-- OP = 0010, RSV = 0. -/
theorem test_decode_setVolume : decode (0b0010#4 ++ 0#28) = .command .setVolume := by decide
/-- OP = 0011, RSV = 0. -/
theorem test_decode_start : decode (0b0011#4 ++ 0#28) = .command .start := by decide
/-- OP = 0100, RSV = 0. -/
theorem test_decode_shutdown : decode (0b0100#4 ++ 0#28) = .command .shutdown := by decide
/-- OP = 0101, RSV1 = 0, BUF = 10, RSV2 = 0, COUNT = 0100 0000 0000. -/
theorem test_decode_generate : decode (0b0101#4 ++ 0#10 ++ 0b10#2 ++ 0#4 ++ 0b010000000000#12) =
    .command (.generate 2 1024) := by decide
/-- GENERATE 0, 50 is 0x50000032 (R93's example). -/
theorem test_decode_generate_example : decode 0x50000032#32 = .command (.generate 0 50) := by decide
/-- RSV1's lowest bit and RSV2's highest bit are reserved: code 2. -/
theorem test_decode_reserved_bits : decode 0x50040000#32 = .reject .reservedBits ∧
    decode 0x50008000#32 = .reject .reservedBits ∧ decode 0x08000000#32 = .reject .reservedBits := by decide
/-- A reserved opcode is code 1, whatever its other bits. -/
theorem test_decode_reserved_opcode : decode 0x60000000#32 = .reject .reservedOpcode ∧
    decode 0xFFFFFFFF#32 = .reject .reservedOpcode := by decide
/-- The table's numbering of bits. -/
theorem test_decodeTableWord : decodeTableWord 32 0x50020400 = some (.generate 2 1024) ∧
    decodeTableWord 32 0x60000000 = none := by decide

/-! ## One step of each command -/

/-- NOP from any state changes only the bus response (R87, R95). -/
theorem test_step_nop (s : State) : step (s.withFetchWord 32 0x00000000) = .next (s.respond .done) := rfl

/-- R88's example: `TRIG 220.0, 0.4` in SIMPLE. -/
theorem test_step_trigger_simple : pick (fun t => (t.synth, t.sounding)) (Synth.zero, false)
    (step ((armed .simple).withFetchWord 32 0x10000000)) =
      (⟨0x00DC0000#32, 13107#32, 0, 0, 5292#32, 0x40000000#32⟩, true) := by decide
/-- R20: the FM note is 11025 samples long. -/
theorem test_step_trigger_fm : pick (fun t => t.synth.samplesRemaining) 0
    (step ((armed .fm).withFetchWord 32 0x10000000)) = 11025#32 := by decide

/-- R90's example: `SETVOL 1.0` during a note sets VOLUME = 0x8000; phase, countdown and ENV stay. -/
theorem test_step_setVolume : pick (fun t => t.synth) Synth.zero
    (step (({ armed .fm with synth := note .fm, volArg := 0x8000#32 }).withFetchWord 32 0x20000000)) =
      { note .fm with volume := 0x8000#32 } := by decide

/-- R91's example: START with no note leaves RUNNING = 1, FILL_COUNT = 3, PQ = [0, 1, 2]. -/
theorem test_step_start : pick (fun t => (t.running, t.fillCount, t.pq, t.fq)) (false, 0, [], [])
    (step ((build .simple []).withFetchWord 32 0x30000000)) = (true, 3#32, [0, 1, 2], []) := by decide
/-- START while running is refused with code 5 before the sink is asked (R91, R115). -/
theorem test_step_start_running : pick (fun t => (t.errCause, t.errInfo, t.sticky)) (.none, 0, Sticky.clear)
    (step (({ primedBlock with sinkReady := false }).withFetchWord 32 0x30000000)) =
      (.startWhileRunning, 0x30000000#32, ⟨false, false, true, false⟩) := by decide

/-- R92's example: SHUTDOWN after START. -/
theorem test_step_shutdown : pick (fun t => (t.running, t.pq, t.fq, t.synth)) (true, [0], [0], note .simple)
    (step (({ primedBlock with synth := note .simple }).withFetchWord 32 0x40000000)) =
      (false, [], [], Synth.zero) := by decide
/-- SHUTDOWN of a stopped device does not tear SynthState down (R92). -/
theorem test_step_shutdown_stopped : pick (fun t => t.synth) Synth.zero
    (step (({ armed .simple with synth := note .simple }).withFetchWord 32 0x40000000)) = note .simple := by decide

/-- R81's example: the first two steps after `TRIG 220.0, 0.4` return 0 and 4, and leave PHASE = 0x028DDFBA and
SAMPLES_REMAINING = 5290; here by GENERATE 1, 2. -/
theorem test_step_generate :
    pick (fun t => (t.frame 1 0, t.frame 1 1, t.synth.phase, t.synth.samplesRemaining)) (0, 0, 0, 0)
      (step (({ armed .simple with synth := note .simple }).withFetchWord 32 0x50010002)) =
        (0, 4#16, 0x028DDFBA#32, 5290#32) := by decide
/-- GENERATE into a buffer the build does not have: code 4 with the command word (R93, R111). -/
theorem test_step_generate_range : pick (fun t => (t.errCause, t.errInfo)) (.none, 0)
    (step (State.reset.withFetchWord 32 0x50030000)) = (.badArgument, 0x50030000#32) := by decide

/-- A rejected word is recorded, never run (R64, R86). -/
theorem test_step_rejected : pick (fun t => (t.errCause, t.errInfo, t.busResp)) (.none, 0, .idle)
    (step (State.reset.withFetchWord 32 0x10000001)) = (.reservedBits, 0x10000001#32, .done) := by decide

/-! ## The datapath, by the spec's examples -/

/-- R68: inc for 220.0 Hz. -/
theorem test_phaseInc : phaseInc 0x00DC0000#32 = 0x0146EFDD ∧ phaseInc 0x56220000#32 = 2 ^ 31 := by decide
/-- R71: `sine(0x0146EFDD) = SINE[5] = 1005`; R76: `sine(0x051BBF74) = SINE[20] = 4011`. -/
theorem test_sine : sine 0x0146EFDD#32 = 1005 ∧ sine 0x051BBF74#32 = 4011 := by decide
/-- R73: `sr = 1` gives 536870, `sr = 5291` gives 5368709. -/
theorem test_envSimple : envSimple (noteAge .simple 1#32) 1#32 = 536870 ∧
    envSimple (noteAge .simple 5291#32) 5291#32 = 5368709 := by decide
/-- R74: age 1 gives 10737418, age 99 gives 1063004405. -/
theorem test_envFm : envFm 1 0x40000000#32 = 10737418 ∧ envFm 99 0x40000000#32 = 1063004405 := by decide
/-- R75: the first decay steps. -/
theorem test_decayEnv : decayEnv 0x40000000#32 = 1073376667#32 ∧ decayEnv 1073376667#32 = 1073011634#32 := by decide
/-- R76: `m = 2510251` at age 1. R77: the carrier is then 2009. -/
theorem test_fmMixer : modulation 0x051BBF74#32 10737418 = 2510251 ∧ carrier 0x028DDFBA#32 2510251 = 2009 := by decide
/-- R78, R81: the SIMPLE sample of age 1 is 4. -/
theorem test_sampleStep_simple : (sampleStep .simple 0x8000#32
    ⟨0xDC0000#32, 13107#32, 0x0146EFDD#32, 0, 5291#32, 0x40000000#32⟩).1 = 4 := by decide
/-- R79: the FM sample of age 1 is 8. -/
theorem test_sampleStep_fm : (sampleStep .fm 0x8000#32
    ⟨0xDC0000#32, 13107#32, 0x0146EFDD#32, 0x028DDFBA#32, 11024#32, 0x40000000#32⟩).1 = 8 := by decide

/-! ## Bus, sink, fill engine -/

/-- R30's example: FM, 3 buffers of 1024 frames. -/
theorem test_configWord : configWord ⟨.fm, .three, .f1024⟩ = 0x00040031#32 := by decide
/-- R45: a 16-bit read is rejected with code 8, its offset and an error response. -/
theorem test_bus_rejected : pick (fun t => (t.errCause, t.errInfo, t.sticky.busErr, t.busResp)) (.none, 0, false, .idle)
    (hostStep (.read 0x00A#16 .half) State.reset) = (.busAccess, 0x0000000A#32, true, .error) := by decide
/-- R99: an underrun appends a gap and records code 7 with information 0. -/
theorem test_underrun : pick (fun t => (t.trace, t.errCause, t.sticky.underrun)) ([], .none, false)
    (step { drained with schedule := [.sink] }) = ([.gap], .underrun, true) := by decide
/-- R98: CONSUME moves the head of PQ to FQ. -/
theorem test_consume : pick (fun t => (t.pq, t.fq)) ([], []) (step { primedBlock with schedule := [.sink] }) =
    ([1, 2], [0]) := by decide
/-- R100: FILL moves the head of FQ to PQ and counts a pass. -/
theorem test_fill : pick (fun t => (t.pq, t.fq, t.fillCount)) ([], [], 0)
    (step { drained with schedule := [.fill] }) = ([0], [1, 2], 1#32) := by decide

/-- With no event given, a request is served once the fill engine's wait is over, and the wait falls until then (R131, log 7). -/
theorem test_idle_fair : pick (fun t => (t.pq, t.fq)) ([], []) (step { drained with fillWait := 0 }) = ([0], [1, 2]) ∧
    pick (fun t => (t.fq, t.fillWait)) ([], 0) (step { drained with fillWait := 5 }) = ([0, 1, 2], 4) := by decide

/-- R66's formula, on operands that fit their fields and on one that does not: `0x50000000 OR (1 << 16) OR 0x10000`. -/
theorem test_assemble_generate : assemble [.command (.generate 2 1024), .command (.generate 1 0x10000)] =
    [wr 4 0x50020400, wr 4 0x50010000] := by decide

/-- R67's example: `TRIG 220.0, 0.4` writes 0x00DC0000 and 13107 (0x3333). -/
theorem test_assemble_trig : assemble [.trig ⟨2200, 1⟩ ⟨4, 1⟩] =
    [wr 0x14 0x00DC0000, wr 0x18 0x3333, wr 4 0x10000000] := by decide

/-! ## Witnesses: states and operands that meet the hypotheses of the statements

Each is named after its statement; where a statement has several clauses, one conjunct for each, at the edges of its range. -/

theorem witness_DecodeOfEncodeIsTheCommand : (Instr.generate 3 4095).WellFormed ∧ (Instr.generate 0 0).WellFormed := by decide

theorem witness_AcceptedWordIsItsCommandsEncoding : decode 0x50030FFF#32 = .command (.generate 3 4095) ∧
    decode 0x40000000#32 = .command .shutdown := by decide

theorem witness_DecodingFollowsTheDecodeProcedure :
    6 ≤ ((0x60000000#32).extractLsb' 28 4).toNat ∧ 6 ≤ ((0xFFFFFFFF#32).extractLsb' 28 4).toNat ∧
    (((0x50001000#32).extractLsb' 28 4).toNat = 5 ∧ 0x50001000#32 &&& 0x0FFCF000#32 ≠ 0) ∧
    (((0x40000001#32).extractLsb' 28 4).toNat ≤ 4 ∧ 0x40000001#32 &&& 0x0FFFFFFF#32 ≠ 0) ∧
    (((0x50030FFF#32).extractLsb' 28 4).toNat = 5 ∧ 0x50030FFF#32 &&& 0x0FFCF000#32 = 0) ∧
    (∀ op : BitVec 3, (op.toNat ≤ 4 → ((0#1 ++ op ++ 0#28 : BitVec (1 + 3 + 28)).extractLsb' 28 4).toNat = op.toNat ∧
      (0#1 ++ op ++ 0#28 : BitVec (1 + 3 + 28)) &&& 0x0FFFFFFF#32 = 0)) ∧
    decode 0xF0000000#32 = .reject .reservedOpcode ∧ decode 0x1FFFFFFF#32 = .reject .reservedBits := by decide

theorem witness_SelectingARowIsDecodingToIt : decode 0x30000000#32 = .command .start ∧
    (opcodeRow (.generate 0 0)).selects 0x50030FFF#32 = true ∧ 6 ≤ ((0x60000000#32).extractLsb' 28 4).toNat := by decide

theorem witness_StepRunsTheWrittenCommand :
    (State.reset.withFetchWord 32 0x50020400).schedule = cmdWrite 0x50020400#32 :: [] ∧
    decode 0x50020400#32 = .command (.generate 2 1024) ∧ decode 0x60000000#32 = .reject .reservedOpcode := by decide

theorem witness_NopChangesNothing : ((0x00000001#32).extractLsb' 28 4).toNat = 0 ∧ (0x00000001#32 : Word) ≠ 0 := by decide

theorem witness_TriggerStartsTheNoteAfresh : exec .trigger State.reset =
    .next (State.reset.setSynth (triggered .simple 0 0)) ∧ State.reset.freqArg = 0 ∧ State.reset.volArg = 0 := ⟨rfl, rfl, rfl⟩

theorem witness_SetVolumeCopiesVolArg : exec .setVolume State.reset = .next (State.reset.setSynth Synth.zero) ∧
    State.reset.synth.samplesRemaining = 0 := ⟨rfl, rfl⟩

theorem witness_StartIsRefusedWithItsRecord : primedBlock.running = true ∧
    ({ State.reset with sinkReady := false } : State).running = false := by decide

theorem witness_StartPrimesEveryBufferAndRuns : State.reset.running = false ∧ State.reset.sinkReady = true := by decide

theorem witness_ShutdownStopsAndDisposes : State.reset.running = false ∧ primedBlock.running = true := by decide

theorem witness_GenerateRendersIntoTheBuffer : State.reset.running = false ∧ 2 < State.reset.cfg.numBuf.toNat ∧
    1024 ≤ State.reset.cfg.bufFrames.toNat ∧ 1023 < 1024 := by decide

theorem witness_GenerateIsRefusedWithItsRecord : primedBlock.running = true ∧ State.reset.running = false ∧
    State.reset.cfg.numBuf.toNat ≤ 3 ∧ State.reset.cfg.bufFrames.toNat < 1025 := by decide

theorem witness_CommandsLeaveTheRestAlone : exec .nop State.reset = .next State.reset ∧
    exec .shutdown primedBlock = .next primedBlock.dispose ∧
    exec .setVolume State.reset = .next (State.reset.setSynth Synth.zero) := ⟨rfl, rfl, rfl⟩

theorem witness_CommandErrorCarriesTheWrittenWord : ∃ t, execWord 0x60000000#32 State.reset = .next t ∧
    t.errCount ≠ State.reset.errCount := ⟨_, rfl, by decide⟩

theorem witness_RoundingIsToNearestHalfAwayFromZero : 0 < 2 ∧ 2 * |(2 : Int) * rha (-3) 2 - (-3)| = 2 := by decide

theorem witness_PhaseIncrementIsRoundedAndBounded : (0x56220000#32).toNat ≤ 0x56220000 ∧ (0#32).toNat ≤ 0x56220000 := by decide

theorem witness_SineRomIsQuarterWaveSymmetric : 0 ≤ 256 ∧ 256 ≤ 256 := by decide

theorem witness_SimpleSoundingStep :
    ((note .simple).samplesRemaining ≠ 0 ∧ (note .simple).samplesRemaining.toNat ≤ 5292) ∧
    ({ note .simple with samplesRemaining := 1 }).samplesRemaining ≠ 0 := by decide

theorem witness_FmSoundingStep : ((note .fm).samplesRemaining ≠ 0 ∧ (note .fm).samplesRemaining.toNat ≤ 11025) ∧
    ({ note .fm with samplesRemaining := 1 }).samplesRemaining ≠ 0 ∧ 11025 - 10926 < 100 ∧ ¬ 11025 - 10925 < 100 := by decide

theorem note_legal (v : Variant) : (note v).Legal v := by
  cases v <;> exact ⟨by decide, by decide, fun _ => rfl, by decide, by decide⟩

theorem witness_SamplesStayInRangeAndTheClampNeverFires : (0x8000#32).toNat ≤ 0x8000 ∧ (note .simple).Legal .simple ∧
    (note .simple).samplesRemaining ≠ 0 ∧ (note .fm).Legal .fm ∧ (note .fm).samplesRemaining ≠ 0 ∧
    0 ∈ (advance .simple 0x8000#32 1 (note .simple)).1 ∧ 1023 < 1024 :=
  ⟨by decide, note_legal _, by decide, note_legal _, by decide, by decide, by decide⟩

theorem witness_AdvanceTurnsThePhasesByTheSoundingSteps : 0 < 1 ∧
    min 1 Synth.zero.samplesRemaining.toNat ≤ 0 ∧ min 5293 (note .simple).samplesRemaining.toNat ≤ 5292 ∧ 5292 < 5293 := by decide

theorem witness_NotePropertiesFollow : 0 ∈ (advance .fm 0 1 (note .fm)).1 ∧ 0 < 200 ∧ 199 < 200 ∧ 99 < 100 ∧
    Synth.zero.samplesRemaining = 0 := by decide

theorem witness_DecayRegisterNeverGrows : (note .fm).samplesRemaining.toNat ≤ 11025 ∧
    10925 + 100 ≤ (note .fm).samplesRemaining.toNat := by decide

theorem reset_inv : State.reset.Inv :=
  ⟨⟨by decide, by decide, fun _ => rfl, by decide, by decide⟩, by decide, by decide, by decide,
    ⟨by simp [State.reset], fun _ => ⟨rfl, rfl⟩⟩,
    ⟨by decide, by simp [State.reset], fun b k _ _ => by simp [State.frame, Memory.readFrame, State.reset, unlistedByte]⟩,
    by simp [State.reset], by simp [State.reset], by simp [State.reset]⟩

/-- A running state that meets the invariant. -/
theorem primedBlock_inv : primedBlock.Inv :=
  ⟨reset_inv.synth, reset_inv.freqArg, reset_inv.volArg, reset_inv.masterGain,
    ⟨fun _ => by simp only [primedBlock]; decide, by simp [primedBlock]⟩,
    ⟨reset_inv.buf.1, reset_inv.buf.2, reset_inv.buf.3⟩, reset_inv.trace, reset_inv.errors, reset_inv.stickyBits⟩

theorem witness_OneStepOneError : (∃ t, step { drained with schedule := [.sink] } = .next t) ∧
    ¬ ({ drained with schedule := [.sink] } : State).NextEvent .reset := ⟨⟨_, rfl⟩, by simp [State.NextEvent]⟩

theorem witness_NoStepStopsTheBlock : primedBlock.Inv := primedBlock_inv

theorem witness_RejectedTransactionOnlyRecords : AccessSize.half ≠ .word ∧ (0x00A#16).toNat % 4 ≠ 0 := by decide

theorem witness_AccessEffectsAndIdempotence : ((0x3C#16).toNat % 4 = 0 ∧ 0x3C#16 ≠ 0x40#16) ∧
    ((0x40#16).toNat % 4 = 0 ∧ ({ State.reset with fillTimeHeld := true } : State).fillTimeHeld = true) ∧
    State.reset.fillTimeHeld = false ∧
    ((0xFFFC#16).toNat % 4 = 0 ∧ 0xFFFC#16 ≠ 0x4#16 ∧ 0xFFFC#16 ≠ 0x8#16 ∧ 0xFFFC#16 ≠ 0x14#16 ∧ 0xFFFC#16 ≠ 0x18#16 ∧
      0xFFFC#16 ≠ 0x1C#16) ∧
    ∃ t, hostStep (.write 0x14#16 .word 0xFFFFFFFF#32) State.reset = .next t :=
  ⟨by decide, by decide, by decide, by decide, _, rfl⟩

theorem witness_EachRegisterReadsItsValue : (build .fm []).cfg.variant = .fm ∧ (build .simple []).cfg.variant = .simple ∧
    ({ State.reset with fillTimeHeld := true } : State).fillTimeHeld = true ∧ State.reset.fillTimeHeld = false := by decide

theorem witness_ConfigReportsTheBuild : (build .fm []).cfg = ⟨.fm, .three, .f1024⟩ ∧
    (armed .fm).cfg = (build .fm []).cfg := by decide

theorem witness_ArgumentWritesReadBackClamped :
    (∃ t, hostStep (.write 0x014#16 .word 0x56220001#32) State.reset = .next t) ∧
    (∃ t, hostStep (.write 0x018#16 .word 0x8001#32) State.reset = .next t) ∧
    (∃ t, hostStep (.write 0x01C#16 .word 0x8000#32) State.reset = .next t) := ⟨⟨_, rfl⟩, ⟨_, rfl⟩, ⟨_, rfl⟩⟩

theorem witness_UnmappedOffsetsReadZeroAndIgnoreWrites :
    ((0x44#16).toNat % 4 = 0 ∧ 0x44 ≤ (0x44#16).toNat ∧ (0xFFC#16).toNat < 0x1000) ∧
    0x1000 + 2 * State.reset.cfg.numBuf.toNat * State.reset.cfg.bufFrames.toNat ≤ (0x2800#16).toNat ∧
    (0xFFFC#16).toNat % 4 = 0 := by decide

theorem witness_WindowReadReturnsTwoFrames :
    0 < State.reset.cfg.numBuf.toNat * State.reset.cfg.bufFrames.toNat / 2 ∧
    1535 < State.reset.cfg.numBuf.toNat * State.reset.cfg.bufFrames.toNat / 2 := by decide

theorem witness_WindowWordsAreLittleEndian : (0x1000#16).toNat % 4 = 0 ∧ 0x1000 ≤ (0x1000#16).toNat ∧ (0x27FC#16).toNat % 4 = 0 ∧
    (0x27FC#16).toNat < 0x1000 + 2 * State.reset.cfg.numBuf.toNat * State.reset.cfg.bufFrames.toNat := by decide

theorem witness_HostWritesReachTheBuffersOnlyByCommand : (0x1000#16 : Offset) ≠ 0x4#16 ∧
    ∃ t, hostStep (.write 0x1000#16 .word 0xFFFFFFFF#32) State.reset = .next t := ⟨by decide, _, rfl⟩

theorem witness_TriggerSeesTheFrequencyWrittenBefore :
    (build .fm [wr 0x14 0x60000000, cmdWrite 0x10000000#32]).schedule =
      .host (.write 0x014#16 .word 0x60000000#32) :: cmdWrite 0x10000000#32 :: [] := rfl

theorem witness_PseudoInstructionsExpand : rha (2200 * 2 ^ 16 : Nat) (10 ^ 1) < 2 ^ 32 ∧ 10 ≤ 10 ^ 1 ∧
    (build .fm (assemble [.trig ⟨2200, 1⟩ ⟨10, 1⟩])).schedule = (Line.trig ⟨2200, 1⟩ ⟨10, 1⟩).events ++ [] ∧
    (build .fm (assemble [.clrErr])).schedule = Line.clrErr.events ++ [] := ⟨by decide, by decide, rfl, rfl⟩

theorem witness_ConsumeEmitsTheHeadBuffer : primedBlock.running = true ∧ primedBlock.pq = 0 :: [1, 2] ∧
    0 < primedBlock.cfg.numBuf.toNat ∧ 1023 < primedBlock.cfg.bufFrames.toNat := by decide

theorem witness_UnderrunEmitsAGapAndRecords : drained.running = true ∧ drained.pq = [] := by decide

theorem witness_FillRefillsTheOldestRequest : drained.running = true ∧ drained.fq = 0 :: [1, 2] ∧
    0 < drained.cfg.numBuf.toNat ∧ 1023 < drained.cfg.bufFrames.toNat := by decide

theorem witness_StoppedAgentsTakeNoStep : State.reset.running = false ∧
    exec .shutdown drained = .next drained.dispose := ⟨rfl, rfl⟩

/-- What follows a state under an event; the state itself where nothing does. -/
def after (e : Event) (s : State) : State := pick (fun t => t) s (perform e s)

/-- One buffer's turns: the fill engine fills it, the sink takes it, and so on. -/
def turns (n : Nat) : Event := if n % 2 = 0 then .fill else .sink

/-- The run of these turns from a block that has one request. -/
def oneBuffer : Nat → State
  | 0 => { State.reset with running := true, fq := [0] }
  | n + 1 => after (turns n) (oneBuffer n)

theorem oneBuffer_shape (n : Nat) : (oneBuffer n).running = true ∧ (oneBuffer n).cfg = State.reset.cfg ∧
    (n % 2 = 0 → (oneBuffer n).pq = [] ∧ (oneBuffer n).fq = [0]) ∧
    (n % 2 = 1 → (oneBuffer n).pq = [0] ∧ (oneBuffer n).fq = []) ∧
    perform (turns n) (oneBuffer n) = .next (oneBuffer (n + 1)) := by
  have hb : 0 < State.reset.cfg.numBuf.toNat := by decide
  have hnext : ∀ (e : Event) (s t : State), perform e s = .next t → after e s = t := fun e s t h => by simp [after, pick, h]
  have hfill : ∀ s : State, s.running = true → s.cfg = State.reset.cfg → s.fq = [0] →
      perform .fill s = .next (State.fillPass { s with fq := [] } 0) := fun s hr hc hq => by
    simp [perform, fillStep, hr, hc, hq, hb]
  have hsink : ∀ s : State, s.running = true → s.cfg = State.reset.cfg → s.pq = [0] →
      perform .sink s = .next (s.consumeStep 0 []) := fun s hr hc hq => by simp [perform, sinkStep, hr, hc, hq, hb]
  have step : ∀ n, (oneBuffer n).running = true → (oneBuffer n).cfg = State.reset.cfg →
      (n % 2 = 0 → (oneBuffer n).pq = [] ∧ (oneBuffer n).fq = [0]) →
      (n % 2 = 1 → (oneBuffer n).pq = [0] ∧ (oneBuffer n).fq = []) →
      perform (turns n) (oneBuffer n) = .next (oneBuffer (n + 1)) ∧ (oneBuffer (n + 1)).running = true ∧
      (oneBuffer (n + 1)).cfg = State.reset.cfg ∧
      ((n + 1) % 2 = 0 → (oneBuffer (n + 1)).pq = [] ∧ (oneBuffer (n + 1)).fq = [0]) ∧
      ((n + 1) % 2 = 1 → (oneBuffer (n + 1)).pq = [0] ∧ (oneBuffer (n + 1)).fq = []) := by
    intro n hr hc h0 h1
    rcases Nat.mod_two_eq_zero_or_one n with hn | hn
    · have hp := hfill _ hr hc (h0 hn).2
      have ht : turns n = .fill := if_pos hn
      have he : oneBuffer (n + 1) = State.fillPass { oneBuffer n with fq := [] } 0 := by
        show after (turns n) (oneBuffer n) = _
        rw [ht]
        exact hnext _ _ _ hp
      rw [ht, he]
      exact ⟨hp, hr, hc, fun h => by omega, fun _ => ⟨by simp [(h0 hn).1], rfl⟩⟩
    · have hp := hsink _ hr hc (h1 hn).1
      have ht : turns n = .sink := if_neg (by omega)
      have he : oneBuffer (n + 1) = (oneBuffer n).consumeStep 0 [] := by
        show after (turns n) (oneBuffer n) = _
        rw [ht]
        exact hnext _ _ _ hp
      rw [ht, he]
      exact ⟨hp, hr, hc, fun _ => ⟨rfl, by simp [(h1 hn).2]⟩, fun h => by omega⟩
  induction n with
  | zero =>
    have h := step 0 rfl rfl (fun _ => ⟨rfl, rfl⟩) (fun h => by omega)
    exact ⟨rfl, rfl, fun _ => ⟨rfl, rfl⟩, fun h => by omega, h.1⟩
  | succ n ih =>
    have h := step n ih.1 ih.2.1 ih.2.2.1 ih.2.2.2.1
    exact ⟨h.2.1, h.2.2.1, h.2.2.2.1, h.2.2.2.2, (step (n + 1) h.2.1 h.2.2.1 h.2.2.2.1 h.2.2.2.2).1⟩

/-- A block left to itself: nothing to play, nothing to fill, one gap after another. -/
def starving : Nat → State
  | 0 => { State.reset with running := true }
  | n + 1 => (starving n).underrunStep

theorem starving_shape (n : Nat) : (starving n).running = true ∧ (starving n).schedule = [] ∧ (starving n).pq = [] ∧
    (starving n).fq = [] := by
  induction n with
  | zero => exact ⟨rfl, rfl, rfl, rfl⟩
  | succ n ih => exact ih

theorem witness_RunningBlockNeverEndsAndServesRequests : (primedBlock.Inv ∧ primedBlock.running = true) ∧
    (IsEventRun turns oneBuffer ∧ WeaklyFair turns oneBuffer ∧ 0 ∈ (oneBuffer 0).fq) ∧ IsStepRun starving := by
  refine ⟨⟨primedBlock_inv, rfl⟩, ⟨fun n => (oneBuffer_shape n).2.2.2.2, ?_, by decide⟩, ?_⟩
  · intro a n
    cases a with
    | sink => exact ⟨2 * n + 1, by omega, .inr (if_neg (by omega))⟩
    | fill => exact ⟨2 * n, by omega, .inr (if_pos (by omega))⟩
  · intro n
    obtain ⟨hr, hs, hp, hq⟩ := starving_shape n
    have hsink : sinkStep (starving n) = .next (starving n).underrunStep := by
      unfold sinkStep
      rw [if_pos hr, hp]
    rw [step_idle_sink hs hr (.inl hq), if_pos hq]
    exact hsink

theorem witness_FillAfterTriggerRendersTheNewNote : ∃ t u, drained.running = true ∧ drained.fq = 0 :: [1, 2] ∧
    0 < drained.cfg.numBuf.toNat ∧ exec .trigger drained = .next t ∧ perform .fill t = .next u ∧
    1023 < drained.cfg.bufFrames.toNat := ⟨_, _, rfl, rfl, by decide, rfl, rfl, by decide⟩

theorem witness_NoStepWritesTheBuild : ∃ t, step (State.reset.withFetchWord 32 0x40000000) = .next t := ⟨_, rfl⟩

theorem witness_ArgumentsChangeOnlyByTheirWriteOrReset :
    (∃ t, step (build .simple [wr 0x14 1]) = .next t ∧ t.freqArg ≠ (build .simple [wr 0x14 1]).freqArg) ∧
    (∃ t, step (build .simple [wr 0x18 1]) = .next t ∧ t.volArg ≠ (build .simple [wr 0x18 1]).volArg) ∧
    ∃ t, step (build .simple [wr 0x1C 1]) = .next t ∧ t.masterGain ≠ (build .simple [wr 0x1C 1]).masterGain :=
  ⟨⟨_, rfl, by decide⟩, ⟨_, rfl, by decide⟩, ⟨_, rfl, by decide⟩⟩

theorem witness_RunningChangesOnlyByStartShutdownOrReset :
    (∃ t, step (build .simple [wr 4 0x30000000]) = .next t ∧ (build .simple []).running = false ∧ t.running = true) ∧
    ∃ t, step { primedBlock with schedule := [wr 4 0x40000000] } = .next t ∧ primedBlock.running = true ∧
      t.running = false := ⟨⟨_, rfl, rfl, rfl⟩, ⟨_, rfl, rfl, rfl⟩⟩

theorem witness_FreqAndVolumeChangeOnlyByTheirCommands :
    (∃ t, step ((armed .simple).withFetchWord 32 0x10000000) = .next t ∧ t.synth.freq ≠ (armed .simple).synth.freq) ∧
    ∃ t, step ((armed .simple).withFetchWord 32 0x20000000) = .next t ∧ t.synth.volume ≠ (armed .simple).synth.volume :=
  ⟨⟨_, rfl, by decide⟩, ⟨_, rfl, by decide⟩⟩

theorem witness_StickyBitsClearOnlyByW1cOrReset :
    ∃ t, step { build .fm [wr 8 0x78] with sticky := ⟨true, true, true, true⟩ } = .next t ∧
      t.sticky = ⟨false, false, false, false⟩ := ⟨_, rfl, by decide⟩

theorem witness_FillCountCountsPasses : ∃ t, step { drained with schedule := [.fill] } = .next t ∧
    t.fillCount ≠ drained.fillCount := ⟨_, rfl, by decide⟩

theorem witness_TraceGrowsByAtMostOneEvent : (∃ t, step { drained with schedule := [.sink] } = .next t) ∧
    ¬ ({ drained with schedule := [.sink] } : State).NextEvent .reset := ⟨⟨_, rfl⟩, by simp [State.NextEvent]⟩

theorem witness_ResetGivesEveryPieceItsValue : State.reset.HasResetValues :=
  ⟨rfl, rfl, rfl, rfl, by decide, rfl, rfl, rfl, rfl, rfl,
    fun b k => by simp [State.frame, Memory.readFrame, State.reset, unlistedByte], rfl, rfl, rfl⟩

theorem witness_EveryStepKeepsTheInvariant : primedBlock.Inv ∧
    ∃ t, step { primedBlock with schedule := [.sink] } = .next t := ⟨primedBlock_inv, _, rfl⟩

/-- The sink of a running block takes the buffer at the head of PQ. -/
theorem consumed (p : State) (b : Nat) (rest : List Nat) (hr : p.running = true) (hq : p.pq = b :: rest)
    (hb : b < p.cfg.numBuf.toNat) : ∃ t new, Sys2Proof.core.run [Event.sink].length { p with schedule := [Event.sink] } = .next t ∧
      t.trace = p.trace ++ new ∧ GapFree new ∧ new.length = 1 := by
  refine ⟨State.consumeStep { p with schedule := [] } b rest, [.play b (State.bufferFrames { p with schedule := [] } b)],
    ?_, rfl, by simp [GapFree], rfl⟩
  have hstep : step { p with schedule := [Event.sink] } = .next (State.consumeStep { p with schedule := [] } b rest) := by
    rw [step_cons rfl]
    simp [perform, sinkStep, hr, hq, hb]
  simp only [List.length_singleton, Host.Core.run, core]
  rw [hstep]

/-- A started block whose sink takes one buffer. -/
theorem witness_UndisturbedPlaybackIsTheNoteInOrder :
    State.reset.Inv ∧ State.reset.running = false ∧ State.reset.sinkReady = true ∧
    ∃ s₁ t new, exec .start State.reset = .next s₁ ∧ (∀ e ∈ [Event.sink], e.Undisturbing) ∧
      Sys2Proof.core.run [Event.sink].length { s₁ with schedule := [Event.sink] } = .next t ∧
      t.trace = s₁.trace ++ new ∧ GapFree new ∧ new.length = 1 := by
  have hex : exec .start State.reset = .next { State.reset.prime with running := true } := by simp [exec, execStart, State.reset]
  have hpq : ({ State.reset.prime with running := true } : State).pq = 0 :: [1, 2] := by
    rw [State.prime_eq, primed_fields]
    decide
  have hcfg : ({ State.reset.prime with running := true } : State).cfg = State.reset.cfg := by
    rw [State.prime_eq, primed_fields]
  obtain ⟨t, new, h1, h2, h3, h4⟩ := consumed _ 0 [1, 2] rfl hpq (by rw [hcfg]; decide)
  refine ⟨reset_inv, rfl, rfl, _, t, new, hex, ?_, h1, h2, h3, h4⟩
  simp [Event.Undisturbing, Event.Writes, Event.Commands, cmdWrite]

end Sys2Proof.Machine.Tests
end

section
/-! CONFIG reports the build: its fields do not overlap because `NUM_BUF` fits four bits and `BUF_FRAMES` fits sixteen (R30). -/

namespace Sys2Proof.Machine

/-! ## The fields of CONFIG -/

theorem numBuf_toNat_lt (n : NumBuf) : n.toNat < 2 ^ 4 := by cases n <;> decide

theorem bufFrames_toNat_lt (f : BufFrames) : f.toNat < 2 ^ 16 := by cases f <;> decide

/-- The sum that makes up CONFIG does not wrap. -/
theorem configWord_toNat (cfg : Config) : (configWord cfg).toNat =
    (if cfg.variant = .simple then 0 else 1) + cfg.numBuf.toNat * 2 ^ 4 + cfg.bufFrames.toNat * 2 ^ 8 := by
  obtain ⟨v, n, f⟩ := cfg
  have hn := numBuf_toNat_lt n
  have hf := bufFrames_toNat_lt f
  cases v <;> simp only [configWord, BitVec.toNat_ofNat, reduceCtorEq, if_true, if_false] <;> omega

section
variable (cfg : Config)

theorem configWord_field_toNat (lo len : Nat) : ((configWord cfg).extractLsb' lo len).toNat =
    ((if cfg.variant = .simple then 0 else 1) + cfg.numBuf.toNat * 2 ^ 4 + cfg.bufFrames.toNat * 2 ^ 8) / 2 ^ lo % 2 ^ len := by
  rw [BitVec.extractLsb'_toNat, configWord_toNat, Nat.shiftRight_eq_div_pow]

theorem configWord_variant_toNat :
    ((configWord cfg).extractLsb' 0 1).toNat = if cfg.variant = .simple then 0 else 1 := by
  rw [configWord_field_toNat]
  split <;> omega

theorem configWord_variant_eq_zero_iff : (configWord cfg).extractLsb' 0 1 = 0 ↔ cfg.variant = .simple := by
  rw [← BitVec.toNat_inj, configWord_variant_toNat]
  cases cfg.variant <;> simp

theorem configWord_variant_eq_one_iff : (configWord cfg).extractLsb' 0 1 = 1 ↔ cfg.variant = .fm := by
  rw [← BitVec.toNat_inj, configWord_variant_toNat]
  cases cfg.variant <;> simp

theorem configWord_bits_above_variant : (configWord cfg).extractLsb' 1 3 = 0 := by
  refine BitVec.eq_of_toNat_eq ((configWord_field_toNat cfg 1 3).trans ?_)
  split <;> simp only [BitVec.ofNat_eq_ofNat, BitVec.toNat_ofNat] <;> omega

theorem configWord_numBuf : ((configWord cfg).extractLsb' 4 4).toNat = cfg.numBuf.toNat := by
  have hn := numBuf_toNat_lt cfg.numBuf
  rw [configWord_field_toNat]
  split <;> omega

theorem configWord_bufFrames : ((configWord cfg).extractLsb' 8 16).toNat = cfg.bufFrames.toNat := by
  have hn := numBuf_toNat_lt cfg.numBuf
  have hf := bufFrames_toNat_lt cfg.bufFrames
  rw [configWord_field_toNat]
  split <;> omega

theorem configWord_bits_above_bufFrames : (configWord cfg).extractLsb' 24 8 = 0 := by
  have hn := numBuf_toNat_lt cfg.numBuf
  have hf := bufFrames_toNat_lt cfg.bufFrames
  refine BitVec.eq_of_toNat_eq ((configWord_field_toNat cfg 24 8).trans ?_)
  split <;> simp only [BitVec.ofNat_eq_ofNat, BitVec.toNat_ofNat] <;> omega

end

/-! ## Access to CONFIG over the bus -/

/-- A read of CONFIG changes no more than the response. -/
theorem hostStep_read_config (s : State) :
    hostStep (.read 0x038#16 .word) s = .next { s with busResp := .data (configWord s.cfg) } :=
  hostStep_read_reg s .config 0x038#16 rfl (.inl (by decide))

/-- CONFIG is read-only: a write completes and is ignored (R33, R95). -/
theorem hostStep_write_config (s : State) (w : Word) :
    hostStep (.write 0x038#16 .word w) s = .next { s with busResp := .done } :=
  hostStep_write_reg s .config 0x038#16 w rfl

/-- Settles O36: the value read is `configWord` of the build alone, and each field is a digit of the sum that makes it up. -/
theorem configReportsTheBuild : Obligations.ConfigReportsTheBuild := by
  intro s
  refine ⟨configWord s.cfg, hostStep_read_config s,
    ⟨configWord_variant_eq_zero_iff s.cfg, configWord_variant_eq_one_iff s.cfg⟩, configWord_bits_above_variant s.cfg,
    configWord_numBuf s.cfg, configWord_bufFrames s.cfg, configWord_bits_above_bufFrames s.cfg, ?fmExample,
    ?sameBuild, hostStep_write_config s⟩
  case fmExample =>
    intro h
    rw [h]
    decide
  case sameBuild =>
    intro s' h
    rw [← h]
    exact hostStep_read_config s'

end Sys2Proof.Machine
end

section
/-! What lies above the registers of the bus window: unmapped offsets, which a transaction neither reads nor changes (R48), and the
words of the buffer window, each two frames of one buffer (R44). -/

namespace Sys2Proof.Machine

/-! ## Places above the registers -/

theorem placeAt_window (cfg : Config) {a : Offset} (h : bufBase ≤ a.toNat) (hend : a.toNat < windowEnd cfg) :
    placeAt cfg a = .window := by
  have hregs : 0x44 ≤ a.toNat := Nat.le_trans (by decide) h
  rw [placeAt_above cfg hregs, if_pos ⟨h, hend⟩]

/-- Above the registers, an offset on either side of the buffer window names nothing (R48). -/
theorem placeAt_unmapped (cfg : Config) {a : Offset} (h : 0x44 ≤ a.toNat)
    (hout : a.toNat < bufBase ∨ windowEnd cfg ≤ a.toNat) : placeAt cfg a = .unmapped := by
  rw [placeAt_above cfg h, if_neg (by omega)]

/-! ## Transactions above the registers -/

/-- No write above the registers reaches anything: the buffer window is read-only and the rest is unmapped (R33, R48). -/
theorem hostStep_write_above (s : State) {a : Offset} (w : Word) (h4 : a.toNat % 4 = 0) (h : 0x44 ≤ a.toNat) :
    hostStep (.write a .word w) s = .next { s with busResp := .done } := by
  simp only [hostStep, admitted_of_aligned h4, if_true, placeAt_above s.cfg h]
  split
  case isTrue => rfl
  case isFalse => rfl

theorem hostStep_read_unmapped (s : State) {a : Offset} (h4 : a.toNat % 4 = 0) (h : 0x44 ≤ a.toNat)
    (hout : a.toNat < bufBase ∨ windowEnd s.cfg ≤ a.toNat) :
    hostStep (.read a .word) s = .next { s with busResp := .data 0 } := by
  have hvalue : s.readValue a = 0 := by rw [State.readValue, placeAt_unmapped s.cfg h hout]
  rw [hostStep_read_above s h4 h, hvalue]

theorem hostStep_read_window (s : State) {a : Offset} (h4 : a.toNat % 4 = 0) (h : bufBase ≤ a.toNat)
    (hend : a.toNat < windowEnd s.cfg) :
    hostStep (.read a .word) s = .next { s with busResp := .data (s.windowWord a.toNat) } := by
  have hregs : 0x44 ≤ a.toNat := Nat.le_trans (by decide) h
  have hvalue : s.readValue a = s.windowWord a.toNat := by rw [State.readValue, placeAt_window s.cfg h hend]
  rw [hostStep_read_above s h4 hregs, hvalue]

/-- Settles O38: an offset between the registers and the buffer window, or beyond its end, is unmapped. -/
theorem unmappedOffsetsReadZeroAndIgnoreWrites : Obligations.UnmappedOffsetsReadZeroAndIgnoreWrites := by
  intro s a w h4 h hout
  exact ⟨hostStep_read_unmapped s h4 h hout, hostStep_write_above s w h4 h⟩

/-! ## The words of the buffer window -/

/-- Word j of the window begins below the window's end (R41). -/
theorem wordAddr_lt_windowEnd (cfg : Config) {j : Nat} (h : j < cfg.numBuf.toNat * cfg.bufFrames.toNat / 2) :
    bufBase + 4 * j < windowEnd cfg := by
  rw [windowEnd, Nat.mul_assoc]
  omega

/-- The largest buffer window lies within the 16-bit offsets of the bus window, so no word's offset wraps (R41). -/
theorem wordOffset_toNat (cfg : Config) {j : Nat} (h : j < cfg.numBuf.toNat * cfg.bufFrames.toNat / 2) :
    (BitVec.ofNat 16 (bufBase + 4 * j)).toNat = bufBase + 4 * j := by
  have hsize := (window_size cfg).1
  rw [BitVec.toNat_ofNat, bufBase]
  omega

/-- Word j of the window holds frame 2j of the whole RAM and frame 2j + 1 above it (R44). -/
theorem State.windowWord_wordAddr (s : State) (j : Nat) :
    s.windowWord (bufBase + 4 * j) = (s.ramFrame (2 * j + 1) ++ s.ramFrame (2 * j) : BitVec (16 + 16)) := by
  have hf : (bufBase + 4 * j - bufBase) / 2 = 2 * j := by omega
  rw [State.windowWord, hf]

/-- A read of word j of the window (R44, R94). -/
theorem hostStep_read_windowWord (s : State) {a : Offset} {j : Nat} (ha : a.toNat = bufBase + 4 * j)
    (h : j < s.cfg.numBuf.toNat * s.cfg.bufFrames.toNat / 2) :
    hostStep (.read a .word) s =
      .next { s with busResp := .data (s.ramFrame (2 * j + 1) ++ s.ramFrame (2 * j) : BitVec (16 + 16)) } := by
  have h4 : a.toNat % 4 = 0 := by rw [ha, Nat.add_mul_mod_self_left, bufBase]
  have hend : a.toNat < windowEnd s.cfg := by rw [ha]; exact wordAddr_lt_windowEnd s.cfg h
  rw [hostStep_read_window s h4 (by omega) hend, ha, s.windowWord_wordAddr j]

/-- Settles O39: `State.frame_bytes` places a frame's bytes, word j of the window is a read at its offset, which does not wrap, and
BUF_FRAMES is even. -/
theorem windowReadReturnsTwoFrames : Obligations.WindowReadReturnsTwoFrames := by
  intro s
  refine ⟨fun b k => s.frame_bytes b k, fun j h => ⟨?wordRead, window_word_one_buffer s.cfg j⟩⟩
  case wordRead => exact hostStep_read_windowWord s (wordOffset_toNat s.cfg h) h

end Sys2Proof.Machine
end

section
/-! The opcode map and the decoder read the same fields of a word: a row's mask keeps OP and the reserved bits of its format, and
its match asks for the command's opcode and clear reserved bits (R61, R63, R64). -/

namespace Sys2Proof

/-! ## Fields of a masked word -/

theorem field_and (w m : Word) (hi lo : Nat) : field (w &&& m) hi lo = field w hi lo &&& field m hi lo := by
  simp only [field, BitVec.toNat_and, Nat.and_div_two_pow, Nat.and_mod_two_pow]

/-- A mask whose field is all ones keeps the field. -/
theorem field_and_of_ones (w : Word) {m : Word} {hi lo : Nat} (h : field m hi lo = 2 ^ (hi + 1 - lo) - 1) :
    field (w &&& m) hi lo = field w hi lo := by
  rw [field_and, h, Nat.and_two_pow_sub_one_eq_mod, field, Nat.mod_mod]

/-- A mask whose field is zero clears the field. -/
theorem field_and_of_zero (w : Word) {m : Word} {hi lo : Nat} (h : field m hi lo = 0) :
    field (w &&& m) hi lo = 0 := by
  rw [field_and, h, Nat.and_zero]

/-- A word is its two fields of format Z (R61). -/
theorem eq_iff_fieldsZ (w v : Word) : w = v ↔ opField w = opField v ∧ rsvZ w = rsvZ v := by
  rw [← BitVec.toNat_inj]
  simp only [opField, rsvZ, field]
  omega

/-- A word is its five fields of format G (R61). -/
theorem eq_iff_fieldsG (w v : Word) : w = v ↔ opField w = opField v ∧ field w 27 18 = field v 27 18 ∧
    field w 17 16 = field v 17 16 ∧ field w 15 12 = field v 15 12 ∧ field w 11 0 = field v 11 0 := by
  rw [← BitVec.toNat_inj]
  simp only [opField, field]
  omega

theorem rsvGClear_iff (w : Word) : rsvGClear w = true ↔ field w 27 18 = 0 ∧ field w 15 12 = 0 := by
  simp only [rsvGClear, Bool.and_eq_true, beq_iff_eq]

/-! ## The rows of the opcode map by fields -/

/-- The reserved bits of the command's format are clear in the word (R61). -/
def Instr.ReservedClear : Instr → Word → Prop
  | .generate _ _, w => rsvGClear w = true
  | _, w => rsvZ w = 0

theorem OpcodeRow.selects_iff (r : OpcodeRow) (w : Word) : r.selects w = true ↔ w &&& r.mask = r.matchBits :=
  beq_iff_eq

/-- A row of format Z masks nothing out, so it is selected by its match alone. -/
theorem selects_rowZ_iff (m w : Word) :
    OpcodeRow.selects ⟨m, 0xFFFFFFFF#32⟩ w = true ↔ opField w = opField m ∧ rsvZ w = rsvZ m := by
  have hmask : w &&& 0xFFFFFFFF#32 = w := BitVec.and_allOnes
  rw [OpcodeRow.selects_iff, hmask, eq_iff_fieldsZ]

/-- The row of format G masks the operands out: OP and the reserved bits select it. -/
theorem selects_rowG_iff (w : Word) :
    OpcodeRow.selects ⟨0x50000000#32, 0xFFFCF000#32⟩ w = true ↔ opField w = 5 ∧ rsvGClear w = true := by
  have hop : opField (w &&& 0xFFFCF000#32) = opField w := field_and_of_ones w (by decide)
  have hrsv1 : field (w &&& 0xFFFCF000#32) 27 18 = field w 27 18 := field_and_of_ones w (by decide)
  have hbuf : field (w &&& 0xFFFCF000#32) 17 16 = 0 := field_and_of_zero w (by decide)
  have hrsv2 : field (w &&& 0xFFFCF000#32) 15 12 = field w 15 12 := field_and_of_ones w (by decide)
  have hcount : field (w &&& 0xFFFCF000#32) 11 0 = 0 := field_and_of_zero w (by decide)
  rw [OpcodeRow.selects_iff, eq_iff_fieldsG, hop, hrsv1, hbuf, hrsv2, hcount, rsvGClear_iff]
  simp [opField, field]

/-- A word selects a command's row exactly when it has the command's opcode and no reserved bit set. -/
theorem selects_opcodeRow_iff (i : Instr) (w : Word) :
    (opcodeRow i).selects w = true ↔ opField w = opcode i ∧ i.ReservedClear w := by
  cases i
  case generate => exact selects_rowG_iff w
  all_goals exact selects_rowZ_iff _ w

theorem opcode_le (i : Instr) : opcode i ≤ 5 := by cases i <;> simp [opcode]

/-- No row has a reserved opcode (R65). -/
theorem selects_opcodeRow_of_reservedOpcode (i : Instr) {w : Word} (h : 6 ≤ opField w) :
    (opcodeRow i).selects w = false := by
  have hle := opcode_le i
  refine Bool.eq_false_iff.mpr fun hsel => ?_
  have hop := ((selects_opcodeRow_iff i w).mp hsel).1
  omega

/-! ## The decoder by fields -/

theorem decodeZ_eq_command_iff (i j : Instr) (w : Word) : decodeZ i w = .command j ↔ rsvZ w = 0 ∧ i = j := by
  unfold decodeZ
  split <;> simp [*]

theorem decodeG_eq_command_iff (j : Instr) (w : Word) :
    decodeG w = .command j ↔ rsvGClear w = true ∧ .generate (field w 17 16) (field w 11 0) = j := by
  unfold decodeG
  split <;> simp [*]

/-- A word that decodes to a command has its opcode and no reserved bit set. -/
theorem fields_of_decode_eq_command {w : Word} {i : Instr} (h : decode w = .command i) :
    opField w = opcode i ∧ i.ReservedClear w := by
  unfold decode at h
  split at h
  case h_6 hop =>
    obtain ⟨hrsv, rfl⟩ := (decodeG_eq_command_iff i w).mp h
    exact ⟨hop, hrsv⟩
  case h_7 => cases h
  all_goals
    obtain ⟨hrsv, rfl⟩ := (decodeZ_eq_command_iff _ i w).mp h
    exact ⟨‹opField w = _›, hrsv⟩

/-- A word with a command's opcode and no reserved bit set decodes to a command of the same row. -/
theorem exists_decode_of_fields {w : Word} {i : Instr} (hop : opField w = opcode i) (hrsv : i.ReservedClear w) :
    ∃ j, decode w = .command j ∧ opcodeRow j = opcodeRow i := by
  unfold decode
  rw [hop]
  cases i
  case generate => exact ⟨_, (decodeG_eq_command_iff _ w).mpr ⟨hrsv, rfl⟩, rfl⟩
  all_goals exact ⟨_, (decodeZ_eq_command_iff _ _ w).mpr ⟨hrsv, rfl⟩, rfl⟩

theorem extractLsb'_op_toNat (w : Word) : (w.extractLsb' 28 4).toNat = opField w := by
  rw [BitVec.extractLsb'_toNat, Nat.shiftRight_eq_div_pow, opField, field]

/-- Settles O4: selecting a row and decoding to a command of it both say that OP is the row's opcode and the reserved bits are
clear. -/
theorem selectingARowIsDecodingToIt : Obligations.SelectingARowIsDecodingToIt := by
  refine ⟨⟨rfl, rfl, rfl, rfl, rfl, fun _ _ => rfl⟩, fun i w => (opcodeRow i).selects_iff w, ?reserved, ?decoded, ?selected⟩
  case reserved =>
    intro w i h
    rw [extractLsb'_op_toNat] at h
    exact selects_opcodeRow_of_reservedOpcode i h
  case decoded =>
    intro w i h
    exact (selects_opcodeRow_iff i w).mpr (fields_of_decode_eq_command h)
  case selected =>
    intro w i h
    obtain ⟨hop, hrsv⟩ := (selects_opcodeRow_iff i w).mp h
    exact exists_decode_of_fields hop hrsv

end Sys2Proof
end

section
/-! The sample of one step: the weights that scale it and its range, the base of R80 and R83. -/

namespace Sys2Proof.Machine

/-! ## The weights of a sample -/

/-- Within the note the SIMPLE envelope is a fraction of ENV_ONE. -/
theorem envSimple_range {age : Int} (sr : Word) (h : 0 ≤ age) : 0 ≤ envSimple age sr ∧ envSimple age sr ≤ 2 ^ 30 := by
  unfold envSimple envOne attackS releaseS
  omega

/-- Within the note, and with a legal ENV, the FM envelope is a fraction of ENV_ONE. -/
theorem envFm_range {age : Int} {env : Word} (h : 0 ≤ age) (henv : env.toNat ≤ envOne) :
    0 ≤ envFm age env ∧ envFm age env ≤ 2 ^ 30 := by
  unfold envOne at henv
  unfold envFm envOne attackF
  split <;> omega

theorem noteAge_nonneg {v : Variant} {y : Synth} (h : y.Legal v) : 0 ≤ noteAge v y.samplesRemaining := by
  have := h.samplesRemaining
  unfold noteAge
  omega

/-- The hard clip's range (R77). -/
theorem abs_carrier_le (phase : Word) (m : Int) : |carrier phase m| ≤ 26214 := by
  rw [abs_le]
  unfold carrier clamp clipLevel
  omega

/-- A value scaled by a weight `w / d` of at most 1 and rounded does not leave its range. -/
theorem abs_rha_mul_le {a w : Int} {d b : Nat} (hd : 0 < d) (ha : |a| ≤ b) (hw0 : 0 ≤ w) (hw : w ≤ d) :
    |rha (a * w) d| ≤ b := by
  refine abs_rha_le _ _ _ hd ?_
  calc |a * w| = w * |a| := by rw [abs_mul, abs_of_nonneg hw0, mul_comm]
    _ ≤ d * b := mul_le_mul hw ha (abs_nonneg a) (Int.natCast_nonneg d)

/-- With a legal volume, gain and envelope, the SIMPLE value needs no clamp (R80). -/
theorem abs_rawSimple_le (phase : Word) {volume gain : Word} {e : Int} (hv : volume.toNat ≤ volOne)
    (hg : gain.toNat ≤ volOne) (he : 0 ≤ e ∧ e ≤ 2 ^ 30) : |rawSimple phase volume gain e| ≤ 32767 := by
  obtain ⟨he0, he1⟩ := he
  have hvg : volume.toNat * gain.toNat ≤ 2 ^ 15 * 2 ^ 15 := Nat.mul_le_mul hv hg
  have hvgInt : (volume.toNat * gain.toNat : Int) ≤ 2 ^ 15 * 2 ^ 15 := mod_cast hvg
  have hw : (volume.toNat * gain.toNat : Int) * e ≤ 2 ^ 15 * 2 ^ 15 * 2 ^ 30 :=
    mul_le_mul hvgInt he1 he0 (by norm_num)
  rw [rawSimple, mul_assoc _ (volume.toNat : Int), mul_assoc]
  exact abs_rha_mul_le (by norm_num) (abs_sine_le phase) (by positivity) hw

/-- With a legal volume and envelope, the FM value stays within the range of the carrier (R80). -/
theorem abs_rawFm_le {c e : Int} {volume : Word} (hc : |c| ≤ 26214) (hv : volume.toNat ≤ volOne)
    (he : 0 ≤ e ∧ e ≤ 2 ^ 30) : |rawFm c volume e| ≤ 26214 := by
  obtain ⟨he0, he1⟩ := he
  have hvInt : (volume.toNat : Int) ≤ 2 ^ 15 := mod_cast hv
  have hw : (volume.toNat : Int) * e ≤ 2 ^ 15 * 2 ^ 30 := mul_le_mul hvInt he1 he0 (by norm_num)
  rw [rawFm, mul_assoc]
  exact abs_rha_mul_le (by norm_num) hc (by positivity) hw

/-! ## The sample of a step -/

/-- The sample of a sounding step before its clamp (R73, R78; R74, R76, R77, R79). -/
def Synth.rawSample (gain : Word) (y : Synth) : Variant → Int
  | .simple =>
    rawSimple (addPhase y.phase (phaseInc y.freq)) y.volume gain
      (envSimple (noteAge .simple y.samplesRemaining) y.samplesRemaining)
  | .fm =>
    let e := envFm (noteAge .fm y.samplesRemaining) y.env
    let m := modulation (addPhase y.modPhase (2 * phaseInc y.freq)) e
    rawFm (carrier (addPhase y.phase (phaseInc y.freq)) m) y.volume e

/-- A sounding step returns the clamped sample (R81). -/
theorem sampleStep_sample (v : Variant) (g : Word) {y : Synth} (h : y.samplesRemaining ≠ 0) :
    (sampleStep v g y).1 = clampSample (y.rawSample g v) := by
  cases v
  case simple =>
    rw [sampleStep_simple g y h]
    rfl
  case fm =>
    rw [sampleStep_fm g y h]
    rfl

theorem abs_rawSample_simple_le {g : Word} {y : Synth} (hg : g.toNat ≤ volOne) (hy : y.Legal .simple) :
    |y.rawSample g .simple| ≤ 32767 :=
  abs_rawSimple_le _ hy.volume hg (envSimple_range _ (noteAge_nonneg hy))

theorem abs_rawSample_fm_le (g : Word) {y : Synth} (hy : y.Legal .fm) : |y.rawSample g .fm| ≤ 26214 :=
  abs_rawFm_le (abs_carrier_le _ _) hy.volume (envFm_range (noteAge_nonneg hy) hy.env)

/-- Within the legal values the clamp of SIMPLE never fires (R80). -/
theorem sampleStep_simple_unclamped {g : Word} {y : Synth} (hg : g.toNat ≤ volOne) (hy : y.Legal .simple)
    (h : y.samplesRemaining ≠ 0) : (sampleStep .simple g y).1 = y.rawSample g .simple := by
  rw [sampleStep_sample _ _ h, clampSample_of_abs_le _ (abs_rawSample_simple_le hg hy)]

/-- Within the legal values the clamp of FM never fires (R80). -/
theorem sampleStep_fm_unclamped (g : Word) {y : Synth} (hy : y.Legal .fm) (h : y.samplesRemaining ≠ 0) :
    (sampleStep .fm g y).1 = y.rawSample g .fm := by
  rw [sampleStep_sample _ _ h, clampSample_of_abs_le _ ((abs_rawSample_fm_le g hy).trans (by norm_num))]

/-- An FM sample stays within the range of the carrier (R80). -/
theorem abs_sampleStep_fm_le (g : Word) {y : Synth} (hy : y.Legal .fm) : |(sampleStep .fm g y).1| ≤ 26214 := by
  by_cases h : y.samplesRemaining = 0
  · rw [sampleStep_silent _ _ _ h]
    norm_num
  · rw [sampleStep_fm_unclamped g hy h]
    exact abs_rawSample_fm_le g hy

/-- The sample of any step is in range: it is 0 or a clamped value. -/
theorem sampleStep_range (v : Variant) (g : Word) (y : Synth) :
    -32767 ≤ (sampleStep v g y).1 ∧ (sampleStep v g y).1 ≤ 32767 := by
  by_cases h : y.samplesRemaining = 0
  · rw [sampleStep_silent _ _ _ h]
    norm_num
  · rw [sampleStep_sample _ _ h]
    exact clampSample_range _

theorem advance_range (v : Variant) (g : Word) (n : Nat) (y : Synth) :
    ∀ x ∈ (advance v g n y).1, -32767 ≤ x ∧ x ≤ 32767 :=
  advance_samples v g (fun _ => True) (fun x => -32767 ≤ x ∧ x ≤ 32767) (fun _ _ => trivial)
    (fun y _ => sampleStep_range v g y) n y trivial

/-- Settles O23: the weights of a legal SynthState scale the sine or the clipped carrier by at most 1, so the rounded product
stays in their range. -/
theorem samplesStayInRangeAndTheClampNeverFires : Obligations.SamplesStayInRangeAndTheClampNeverFires :=
  ⟨advance_range, fun _ _ hg hy h => sampleStep_simple_unclamped hg hy h, fun g _ hy h => sampleStep_fm_unclamped g hy h,
    fun g _ hy => abs_le.mp (abs_sampleStep_fm_le g hy), State.advanceInto_frame⟩

end Sys2Proof.Machine
end

section
/-! What ADVANCE(N) leaves in the SynthState: an accumulator turns once for every sounding step (R82), and ENV stays through the
attack (R75). -/

namespace Sys2Proof.Machine

/-! ## The phases -/

/-- What one sounding step adds to MOD_PHASE: nothing in SIMPLE, twice the phase increment in FM (R70). -/
def modPhaseInc : Variant → Word → Nat
  | .simple, _ => 0
  | .fm, f => 2 * phaseInc f

/-- A phase that every sounding step turns by the increment of FREQ turns `min(N, SAMPLES_REMAINING)` increments in ADVANCE(N). -/
theorem advance_turns {v : Variant} {g : Word} {acc : Synth → Word} {inc : Word → Nat}
    (hstep : ∀ y : Synth, y.samplesRemaining ≠ 0 → acc (sampleStep v g y).2 = acc y + BitVec.ofNat 32 (inc y.freq))
    (n : Nat) (y : Synth) :
    acc (advance v g n y).2 = acc y + BitVec.ofNat 32 (min n y.samplesRemaining.toNat * inc y.freq) := by
  induction n generalizing y with
  | zero => simp
  | succ n ih =>
    by_cases h : y.samplesRemaining = 0
    · simp [advance_silent _ _ _ _ h, h]
    · have hsr := (word_ne_zero_iff _).mp h
      have hmin : min (n + 1) y.samplesRemaining.toNat = 1 + min n (y.samplesRemaining.toNat - 1) := by omega
      rw [advance_succ, ih, (sampleStep_keeps v g y).1, sampleStep_samplesRemaining, hstep y h, hmin, Nat.add_mul,
        Nat.one_mul, BitVec.ofNat_add, BitVec.add_assoc]

theorem sampleStep_phase (v : Variant) (g : Word) {y : Synth} (h : y.samplesRemaining ≠ 0) :
    (sampleStep v g y).2.phase = y.phase + BitVec.ofNat 32 (phaseInc y.freq) := by
  cases v
  case simple =>
    rw [sampleStep_simple _ _ h]
    exact addPhase_eq_add _ _
  case fm =>
    rw [sampleStep_fm _ _ h]
    exact addPhase_eq_add _ _

theorem sampleStep_modPhase (v : Variant) (g : Word) {y : Synth} (h : y.samplesRemaining ≠ 0) :
    (sampleStep v g y).2.modPhase = y.modPhase + BitVec.ofNat 32 (modPhaseInc v y.freq) := by
  cases v
  case simple =>
    rw [sampleStep_simple _ _ h]
    exact (BitVec.add_zero _).symm
  case fm =>
    rw [sampleStep_fm _ _ h]
    exact addPhase_eq_add _ _

theorem advance_phase (v : Variant) (g : Word) (n : Nat) (y : Synth) : (advance v g n y).2.phase =
    y.phase + BitVec.ofNat 32 (min n y.samplesRemaining.toNat * phaseInc y.freq) :=
  advance_turns (acc := Synth.phase) (fun _ h => sampleStep_phase v g h) n y

theorem advance_modPhase (v : Variant) (g : Word) (n : Nat) (y : Synth) : (advance v g n y).2.modPhase =
    y.modPhase + BitVec.ofNat 32 (min n y.samplesRemaining.toNat * modPhaseInc v y.freq) :=
  advance_turns (acc := Synth.modPhase) (fun _ h => sampleStep_modPhase v g h) n y

/-! ## The other registers -/

/-- ADVANCE writes neither FREQ nor VOLUME (R16, R17). -/
theorem advance_keeps (v : Variant) (g : Word) (n : Nat) (y : Synth) :
    (advance v g n y).2.freq = y.freq ∧ (advance v g n y).2.volume = y.volume :=
  advance_invariant v g (fun z => z.freq = y.freq ∧ z.volume = y.volume)
    (fun z ⟨hfreq, hvol⟩ => ⟨(sampleStep_keeps v g z).1.trans hfreq, (sampleStep_keeps v g z).2.trans hvol⟩) n y
    ⟨rfl, rfl⟩

/-- SAMPLES_REMAINING falls by `min(N, SAMPLES_REMAINING)` (R82). -/
theorem advance_samplesRemaining_min (v : Variant) (g : Word) (n : Nat) (y : Synth) :
    (advance v g n y).2.samplesRemaining.toNat = y.samplesRemaining.toNat - min n y.samplesRemaining.toNat := by
  rw [advance_samplesRemaining]
  omega

/-- ADVANCE(K + 1) leaves what one more step leaves after ADVANCE(K) (R82). -/
theorem advance_succ_last (v : Variant) (g : Word) (k : Nat) (y : Synth) :
    (advance v g (k + 1) y).2 = (sampleStep v g (advance v g k y).2).2 := by
  rw [advance_add]
  rfl

/-- From the end of the note on the samples are 0 (R82). -/
theorem advance_getElem?_of_ended (v : Variant) (g : Word) {n k : Nat} {y : Synth} (hk : k < n)
    (hend : y.samplesRemaining.toNat ≤ k) : (advance v g n y).1[k]? = some 0 := by
  have hsilent : (advance v g k y).2.samplesRemaining = 0 := by
    apply BitVec.eq_of_toNat_eq
    rw [advance_samplesRemaining]
    exact Nat.sub_eq_zero_of_le hend
  rw [advance_getElem? v g n k y hk, sampleStep_silent _ _ _ hsilent]

/-- Settles O24: each clause is the law of one register or of the samples, the phases by `advance_turns`. -/
theorem advanceTurnsThePhasesByTheSoundingSteps : Obligations.AdvanceTurnsThePhasesByTheSoundingSteps := by
  intro v g n y
  obtain ⟨hfreq, hvol⟩ := advance_keeps v g n y
  refine ⟨advance_length v g n y, hfreq, hvol, advance_phase v g n y, ?modPhaseFm, ?modPhaseSimple,
    advance_samplesRemaining_min v g n y, fun k => advance_getElem? v g n k y, fun k => advance_succ_last v g k y,
    ?zeros, ?nothing⟩
  case modPhaseFm =>
    rintro rfl
    exact advance_modPhase .fm g n y
  case modPhaseSimple =>
    rintro rfl
    simp [advance_modPhase, modPhaseInc]
  case zeros =>
    intro k hm hk
    exact advance_getElem?_of_ended v g hk (by omega)
  case nothing =>
    rintro rfl
    rfl

end Sys2Proof.Machine
end

section
/-! The properties of a note that follow from the datapath (R83): its length, its first sample, and where its envelopes reach
ENV_ONE. -/

namespace Sys2Proof.Machine

/-! ## The note a TRIGGER starts -/

theorem triggered_samplesRemaining_toNat (v : Variant) (f vol : Word) :
    (triggered v f vol).samplesRemaining.toNat = noteLen v := by
  cases v <;> rfl

/-- The age of a note's first step is 0 (R72). -/
theorem noteAge_triggered (v : Variant) (f vol : Word) : noteAge v (triggered v f vol).samplesRemaining = 0 := by
  rw [noteAge, triggered_samplesRemaining_toNat, sub_self]

/-- A note sounds for its NOTE_LEN steps (R83). -/
theorem advance_triggered_sounding_iff (v : Variant) (g f vol : Word) (n : Nat) :
    (advance v g n (triggered v f vol)).2.samplesRemaining ≠ 0 ↔ n < noteLen v := by
  rw [word_ne_zero_iff, advance_samplesRemaining, triggered_samplesRemaining_toNat]
  omega

/-! ## The envelopes -/

@[simp] theorem envSimple_zero (sr : Word) : envSimple 0 sr = 0 := by
  unfold envSimple envOne attackS releaseS
  omega

@[simp] theorem envFm_zero (env : Word) : envFm 0 env = 0 := rfl

/-- The SIMPLE envelope is below ENV_ONE in the attack, whatever the release ramp is at (R73). -/
theorem envSimple_lt_of_attack {age : Int} (sr : Word) (h : age < attackS) : envSimple age sr < 2 ^ 30 := by
  unfold attackS at h
  unfold envSimple envOne attackS
  omega

/-- The FM envelope is below ENV_ONE in the attack (R74). -/
theorem envFm_lt_of_attack {age : Int} (env : Word) (h : age < attackF) : envFm age env < 2 ^ 30 := by
  rw [envFm, if_pos h]
  unfold attackF at h
  unfold envOne attackF
  omega

/-- After the attack the FM envelope is ENV (R74). -/
theorem envFm_of_attack_le {age : Int} (env : Word) (h : attackF ≤ age) : envFm age env = env.toNat :=
  if_neg (not_lt.mpr h)

/-- A step in the FM attack keeps ENV (R75). -/
theorem sampleStep_fm_env_of_attack (g : Word) {y : Synth} (h : noteAge .fm y.samplesRemaining < attackF) :
    (sampleStep .fm g y).2.env = y.env := by
  by_cases hsr : y.samplesRemaining = 0
  · rw [sampleStep_silent _ _ _ hsr]
  · rw [sampleStep_fm _ _ hsr]
    exact if_pos h

/-- ADVANCE within the FM attack keeps ENV (R75). -/
theorem advance_fm_env_of_attack (g : Word) {n : Nat} {y : Synth}
    (h : noteLenF - attackF + n ≤ y.samplesRemaining.toNat) : (advance .fm g n y).2.env = y.env := by
  unfold noteLenF attackF at h
  induction n generalizing y with
  | zero => rfl
  | succ n ih =>
    have hage : noteAge .fm y.samplesRemaining < attackF := by
      simp only [noteAge, noteLen, noteLenF, attackF]
      omega
    have hrest : 11025 - 100 + n ≤ (sampleStep .fm g y).2.samplesRemaining.toNat := by
      rw [sampleStep_samplesRemaining]
      omega
    rw [advance_succ, ih hrest, sampleStep_fm_env_of_attack g hage]

/-! ## The first sample -/

@[simp] theorem rha_zero (d : Nat) : rha 0 d = 0 := by simp [rha]

/-- The first sample of a note is 0, because both envelopes are 0 at age 0 (R83). -/
theorem sampleStep_triggered (v : Variant) (g f vol : Word) : (sampleStep v g (triggered v f vol)).1 = 0 := by
  have hsounding : (triggered v f vol).samplesRemaining ≠ 0 := by
    rw [word_ne_zero_iff, triggered_samplesRemaining_toNat]
    cases v <;> decide
  have hraw : (triggered v f vol).rawSample g v = 0 := by
    cases v
    case simple => rw [Synth.rawSample, noteAge_triggered, envSimple_zero, rawSimple, mul_zero, rha_zero]
    case fm => rw [Synth.rawSample, noteAge_triggered, envFm_zero, rawFm, mul_zero, rha_zero]
  rw [sampleStep_sample v g hsounding, hraw]
  rfl

/-- Settles O25: the countdown and the range are those of every ADVANCE, and the note's own properties follow from its age 0 and
the ramps of the attack. -/
theorem notePropertiesFollow : Obligations.NotePropertiesFollow := by
  refine ⟨advance_samplesRemaining_min, fun v g n y x hx => abs_le.mpr (advance_range v g n y x hx),
    advance_triggered_sounding_iff, sampleStep_triggered,
    ⟨?attackSimple, ?afterAttackSimple, ?attackFm, ?afterAttackFm⟩, advance_silent⟩
  case attackSimple =>
    intro age h
    exact envSimple_lt_of_attack _ (mod_cast h)
  case afterAttackSimple => decide
  case attackFm =>
    intro age env h
    exact envFm_lt_of_attack env (mod_cast h)
  case afterAttackFm =>
    intro g f vol
    have hattack : noteLenF - attackF + 100 ≤ (triggered .fm f vol).samplesRemaining.toNat :=
      (triggered_samplesRemaining_toNat .fm f vol).ge
    rw [envFm_of_attack_le _ (show (attackF : Int) ≤ 100 from le_rfl), advance_fm_env_of_attack g hattack]
    rfl

end Sys2Proof.Machine
end

section
/-! The commands NOP, SET_VOLUME and SHUTDOWN, and the registers right after a TRIGGER (R87, R89, R90, R92). -/

namespace Sys2Proof.Machine

/-! ## What each command does -/

theorem exec_nop (s : State) : exec .nop s = .next s := rfl

theorem exec_trigger (s : State) :
    exec .trigger s = .next (s.setSynth (triggered s.cfg.variant s.freqArg s.volArg)) := rfl

theorem exec_setVolume (s : State) : exec .setVolume s = .next (s.setSynth { s.synth with volume := s.volArg }) := rfl

theorem exec_shutdown_of_stopped {s : State} (h : s.running = false) : exec .shutdown s = .next s :=
  if_neg (Bool.eq_false_iff.mp h)

theorem exec_shutdown_of_running {s : State} (h : s.running = true) : exec .shutdown s = .next s.dispose :=
  if_pos h

/-! ## NOP -/

/-- A word with OP = 0 that is not the word of NOP has a reserved bit set (R61, R64). -/
theorem decode_of_opField_zero {w : Word} (hop : opField w = 0) (hw : w ≠ 0) : decode w = .reject .reservedBits := by
  have hrsv : rsvZ w ≠ 0 := fun hclear => hw ((eq_iff_fieldsZ w 0).mpr ⟨hop, hclear⟩)
  rw [decode, hop]
  exact if_neg hrsv

/-- Settles O7: the word of NOP is the only word with OP = 0 and no reserved bit set. -/
theorem nopChangesNothing : Obligations.NopChangesNothing := by
  refine ⟨rfl, exec_nop, fun w hop hw => ?_⟩
  rw [extractLsb'_op_toNat] at hop
  exact decode_of_opField_zero hop hw

/-! ## TRIGGER -/

/-- Settles O9: the SynthState of a TRIGGER has the note's length and both phases 0. -/
theorem triggerPostcondition : Obligations.TriggerPostcondition := fun s =>
  ⟨_, exec_trigger s, triggered_samplesRemaining_toNat _ _ _, rfl, rfl⟩

/-! ## SET_VOLUME -/

/-- Settles O10: SET_VOLUME leaves the countdown, so a silent SynthState stays silent, and it leaves VOL_ARG for the next
TRIGGER. -/
theorem setVolumeCopiesVolArg : Obligations.SetVolumeCopiesVolArg := by
  refine ⟨rfl, fun s => ⟨exec_setVolume s, fun t ht => ?_⟩⟩
  rw [exec_setVolume] at ht
  cases ht
  refine ⟨fun hsilent n => ?_, _, exec_trigger _, rfl⟩
  exact congrArg Prod.fst (advance_silent _ _ n { s.synth with volume := s.volArg } hsilent)

/-! ## SHUTDOWN -/

/-- Every frame of a disposed block is 0 (R92): its two bytes lie in the cleared window. -/
theorem State.dispose_frame (s : State) {b k : Nat} (hb : b < s.cfg.numBuf.toNat) (hk : k < s.cfg.bufFrames.toNat) :
    s.dispose.frame b k = 0 := by
  obtain ⟨hbase, hend⟩ := frameAddr_in_window s.cfg hb
  have haddr := frameAddr_eq s.cfg b k
  have hlo : bufBase ≤ frameAddr s.cfg b k := by omega
  have hhi : frameAddr s.cfg b k + 1 < windowEnd s.cfg := by omega
  exact Memory.readFrame_clearRange s.mem _ _ _ hlo hhi

/-- Disposing of the buffers changes no byte outside the buffer window (R41, R92). -/
theorem State.dispose_sameBytesOutside (s : State) : s.SameBytesOutside s.dispose bufBase (windowEnd s.cfg) :=
  fun a ha => Memory.read_clearRange_outside s.mem _ _ a ha

/-- Settles O13: a running block is disposed of, and that stops it, so a second SHUTDOWN finds it stopped. -/
theorem shutdownStopsAndDisposes : Obligations.ShutdownStopsAndDisposes := by
  refine ⟨rfl, fun s => ⟨exec_shutdown_of_stopped, fun hrun => ?_⟩⟩
  exact ⟨s.dispose, exec_shutdown_of_running hrun, rfl, fun _ _ hb hk => s.dispose_frame hb hk,
    s.dispose_sameBytesOutside, exec_shutdown_of_stopped s.dispose_running⟩

end Sys2Proof.Machine
end

section
/-! The note that a TRIGGER starts (R88). A SynthState with volume 0, or whose phases stand at 0 with an increment of 0, gives the
sample 0 and stays so at every step. -/

namespace Sys2Proof.Machine

/-! ## Notes of zeros -/

/-- The note gives zeros: its volume is 0, or its phases stand at the zero of the sine and do not turn. -/
def Synth.Mute (y : Synth) : Prop := y.volume = 0 ∨ (y.freq = 0 ∧ y.phase = 0 ∧ y.modPhase = 0)

@[simp] theorem phaseInc_zero : phaseInc 0#32 = 0 := by decide

@[simp] theorem addPhase_zero (p : Word) : addPhase p 0 = p := by simp [addPhase_eq_add]

@[simp] theorem modPhaseInc_zero (v : Variant) : modPhaseInc v 0#32 = 0 := by
  cases v
  case simple => rfl
  case fm => rw [modPhaseInc, phaseInc_zero]

@[simp] theorem sine_zero : sine 0#32 = 0 := by decide

/-- A sine of 0 modulates nothing (R76). -/
@[simp] theorem modulation_zero (e : Int) : modulation 0#32 e = 0 := by simp [modulation]

@[simp] theorem carrier_zero : carrier 0#32 0 = 0 := by decide

/-- The volume, or the sine, is a factor of the sample (R78, R79). -/
theorem Synth.Mute.rawSample_eq_zero {y : Synth} (h : y.Mute) (g : Word) (v : Variant) : y.rawSample g v = 0 := by
  rcases h with hvol | ⟨hfreq, hphase, hmod⟩
  · cases v <;> simp [Synth.rawSample, rawSimple, rawFm, hvol]
  · cases v <;> simp [Synth.rawSample, rawSimple, rawFm, hfreq, hphase, hmod]

theorem Synth.Mute.sampleStep_sample {y : Synth} (h : y.Mute) (g : Word) (v : Variant) : (sampleStep v g y).1 = 0 := by
  by_cases hsr : y.samplesRemaining = 0
  · rw [sampleStep_silent _ _ _ hsr]
  · rw [Machine.sampleStep_sample v g hsr, h.rawSample_eq_zero]
    rfl

/-- A step keeps FREQ and VOLUME, and an increment of 0 turns no phase (R69, R70). -/
theorem Synth.Mute.sampleStep_mute {y : Synth} (h : y.Mute) (g : Word) (v : Variant) : (sampleStep v g y).2.Mute := by
  obtain ⟨hfreq, hvol⟩ := sampleStep_keeps v g y
  by_cases hsr : y.samplesRemaining = 0
  · rwa [sampleStep_silent _ _ _ hsr]
  · refine h.imp (fun h0 => hvol.trans h0) fun ⟨hf, hp, hm⟩ => ⟨hfreq.trans hf, ?_, ?_⟩
    · simp [sampleStep_phase v g hsr, hp, hf]
    · simp [sampleStep_modPhase v g hsr, hm, hf]

theorem Synth.Mute.advance_zeros {y : Synth} (h : y.Mute) (g : Word) (v : Variant) (n : Nat) :
    (advance v g n y).1 = List.replicate n 0 :=
  List.eq_replicate_iff.mpr ⟨advance_length v g n y,
    advance_samples v g Synth.Mute (· = 0) (fun _ hy => hy.sampleStep_mute g v) (fun _ hy => hy.sampleStep_sample g v) n y h⟩

/-! ## The note a TRIGGER starts -/

theorem triggered_mute (v : Variant) {f vol : Word} (h : f = 0 ∨ vol = 0) : (triggered v f vol).Mute :=
  h.symm.imp_right fun hf => ⟨hf, rfl, rfl⟩

/-- NOTE_LEN is not 0, so the note sounds (R27). -/
theorem State.sounding_triggered (s : State) (v : Variant) (f vol : Word) :
    (s.setSynth (triggered v f vol)).sounding = true := by
  cases v <;> rfl

/-- Settles O8: the SynthState of a TRIGGER depends on the build and the argument registers alone, and an argument of 0 makes it
mute. -/
theorem triggerStartsTheNoteAfresh : Obligations.TriggerStartsTheNoteAfresh := by
  refine ⟨rfl, fun s => ⟨?state, fun t ht => ?_⟩⟩
  case state =>
    rw [exec_trigger]
    cases s.cfg.variant <;> rfl
  rw [exec_trigger] at ht
  cases ht
  refine ⟨s.sounding_triggered _ _ _, fun _ _ => rfl, fun hzero n => ⟨?zeros, ?countdown⟩⟩
  case zeros => exact (triggered_mute _ hzero).advance_zeros _ _ n
  case countdown => rw [advance_samplesRemaining, State.setSynth_synth, triggered_samplesRemaining_toNat]

end Sys2Proof.Machine
end

section
/-! CONSUME, the sink's step on a buffer that stands ready (R98). -/

namespace Sys2Proof.Machine

/-- The frames of a buffer in their order are its `Buf[b][k]` (R10, R98). -/
theorem State.bufferFrames_getElem? (s : State) (b : Nat) {k : Nat} (hk : k < s.cfg.bufFrames.toNat) :
    (s.bufferFrames b)[k]? = some (s.frame b k) := by
  rw [State.bufferFrames, List.getElem?_map, List.getElem?_range hk, Option.map_some]

/-- A running sink takes the head of PQ where that names a buffer of the build (R35, R98). -/
theorem sinkStep_consume {s : State} {b : Nat} {rest : List Nat} (hrun : s.running = true) (hpq : s.pq = b :: rest)
    (hb : b < s.cfg.numBuf.toNat) : sinkStep s = .next (s.consumeStep b rest) := by
  simp only [sinkStep, hrun, hpq, hb, if_true]

/-- Settles O44: the sink's step is CONSUME, and the event it adds carries the buffer's frames as they stand. -/
theorem consumeEmitsTheHeadBuffer : Obligations.ConsumeEmitsTheHeadBuffer := fun s b _ hrun hpq hb =>
  ⟨s.bufferFrames b, sinkStep_consume hrun hpq hb, s.bufferFrames_length b, fun _ hk => s.bufferFrames_getElem? b hk⟩

end Sys2Proof.Machine
end

section
/-! The sine ROM by quarters (43_sine_rom.md): each entry of a later quarter is an entry of the first one, up to sign (R107). The
boundary entries 256, 512 and 768 belong to two quarters, whose formulas agree there. -/

namespace Sys2Proof.Machine

theorem sineQuarter_zero : sineQuarter 0 = 0 := rfl

theorem sineRom_eq_sineQuarter {k : Nat} (hk : k ≤ 256) : sineRom k = sineQuarter k := if_pos hk

theorem sineRom_512_sub {k : Nat} (hk : k ≤ 256) : sineRom (512 - k) = sineQuarter k := by
  obtain rfl | hlt := hk.eq_or_lt
  case inl => exact sineRom_eq_sineQuarter le_rfl
  case inr =>
    rw [sineRom, if_neg (by omega), if_pos (Nat.sub_le ..), Nat.sub_sub_self (by omega)]

theorem sineRom_512_add {k : Nat} (hk : k ≤ 256) : sineRom (512 + k) = -sineQuarter k := by
  obtain rfl | hpos := k.eq_zero_or_pos
  case inl => rw [Nat.add_zero, ← Nat.sub_zero 512, sineRom_512_sub hk, sineQuarter_zero, Nat.cast_zero, neg_zero]
  case inr =>
    rw [sineRom, if_neg (by omega), if_neg (by omega), if_pos (by omega), Nat.add_sub_cancel_left]

/-- Index 1024 - 0 is out of the ROM and wraps to entry 0. -/
theorem sineRom_1024_sub_mod {k : Nat} (hk : k ≤ 256) : sineRom ((1024 - k) % 1024) = -sineQuarter k := by
  obtain rfl | hpos := k.eq_zero_or_pos
  case inl => rw [Nat.sub_zero, Nat.mod_self, sineRom_eq_sineQuarter hk, sineQuarter_zero, Nat.cast_zero, neg_zero]
  case inr =>
    rw [Nat.mod_eq_of_lt (by omega)]
    obtain rfl | hlt := hk.eq_or_lt
    case inl => exact sineRom_512_add le_rfl
    case inr =>
      rw [sineRom, if_neg (by omega), if_neg (by omega), if_neg (by omega), Nat.sub_sub_self (by omega)]

/-- Settles O20: every quarter is the first one up to sign, so the special values are entries 0 and 256 of the first quarter. -/
theorem sineRomIsQuarterWaveSymmetric : Obligations.SineRomIsQuarterWaveSymmetric := by
  refine ⟨fun k hk => ?symmetries, ?zero, ?half, ?peak, ?trough⟩
  case symmetries =>
    rw [sineRom_eq_sineQuarter hk, sineRom_512_sub hk, Nat.mod_eq_of_lt (by omega), sineRom_512_add hk,
      sineRom_1024_sub_mod hk]
    exact ⟨rfl, rfl, rfl⟩
  case zero => exact sineRom_eq_sineQuarter (Nat.zero_le _)
  case half => exact sineRom_512_sub (Nat.zero_le _)
  case peak => exact sineRom_eq_sineQuarter le_rfl
  case trough => exact sineRom_512_add le_rfl

end Sys2Proof.Machine
end

section
/-! A command has one word and the word one command: decoding reads back the fields that encoding puts together (R61, R62), and the
masks of the decode procedure ask for the reserved fields (R64). -/

namespace Sys2Proof

/-! ## The fields of GENERATE's word -/

/-- The sum that makes up GENERATE's word does not wrap when the operands fit their fields. -/
theorem encode_generate_toNat {b n : Nat} (hb : b < 4) (hn : n < 4096) :
    (encode (.generate b n)).toNat = 5 * 2 ^ 28 + (b * 2 ^ 16 + n) := by
  rw [encode, opcode, operandBits, BitVec.toNat_ofNat]
  omega

/-- The fields of GENERATE's word are its opcode, clear reserved bits and the operands (R61). -/
theorem fields_encode_generate {b n : Nat} (hb : b < 4) (hn : n < 4096) :
    opField (encode (.generate b n)) = 5 ∧ field (encode (.generate b n)) 27 18 = 0 ∧
      field (encode (.generate b n)) 17 16 = b ∧ field (encode (.generate b n)) 15 12 = 0 ∧
      field (encode (.generate b n)) 11 0 = n := by
  simp only [opField, field, encode_generate_toNat hb hn]
  omega

theorem field_17_16_lt (w : Word) : field w 17 16 < 4 := Nat.mod_lt _ (by norm_num)

theorem field_11_0_lt (w : Word) : field w 11 0 < 4096 := Nat.mod_lt _ (by norm_num)

/-! ## Decoding and encoding -/

theorem decode_of_opField_five {w : Word} (hop : opField w = 5) : decode w = decodeG w := by
  unfold decode
  rw [hop]
  rfl

/-- Settles O1: a format Z command has a fixed word, and GENERATE's operands are the fields of its word. -/
theorem decodeOfEncodeIsTheCommand : Obligations.DecodeOfEncodeIsTheCommand := by
  intro i hwf
  cases i
  case generate b n =>
    obtain ⟨hb, hn⟩ := hwf
    obtain ⟨hop, hrsv1, hbuf, hrsv2, hcount⟩ := fields_encode_generate hb hn
    rw [decode_of_opField_five hop, decodeG_eq_command_iff, rsvGClear_iff, hbuf, hcount]
    exact ⟨⟨hrsv1, hrsv2⟩, rfl⟩
  all_goals rfl

/-- A word of format G with clear reserved bits is the word of GENERATE with the operands it holds. -/
theorem encode_generate_fields {w : Word} (hop : opField w = 5) (hrsv : rsvGClear w = true) :
    encode (.generate (field w 17 16) (field w 11 0)) = w := by
  obtain ⟨hrsv1, hrsv2⟩ := (rsvGClear_iff w).mp hrsv
  obtain ⟨eop, ersv1, ebuf, ersv2, ecount⟩ := fields_encode_generate (field_17_16_lt w) (field_11_0_lt w)
  rw [eq_iff_fieldsG, eop, ersv1, ebuf, ersv2, ecount]
  exact ⟨hop.symm, hrsv1.symm, rfl, hrsv2.symm, rfl⟩

/-- Settles O2: the fields that the decoder reads are all the bits of the word. -/
theorem acceptedWordIsItsCommandsEncoding : Obligations.AcceptedWordIsItsCommandsEncoding := by
  intro w i h
  obtain ⟨hop, hrsv⟩ := fields_of_decode_eq_command h
  cases i
  case generate b n =>
    rw [decode_of_opField_five hop, decodeG_eq_command_iff] at h
    obtain ⟨-, hi⟩ := h
    rw [← hi]
    exact ⟨⟨field_17_16_lt w, field_11_0_lt w⟩, encode_generate_fields hop hrsv⟩
  all_goals exact ⟨trivial, (eq_iff_fieldsZ _ _).mpr ⟨hop.symm, hrsv.symm⟩⟩

/-! ## The decode procedure -/

theorem extractLsb'_buf_toNat (w : Word) : (w.extractLsb' 16 2).toNat = field w 17 16 := by
  rw [BitVec.extractLsb'_toNat, Nat.shiftRight_eq_div_pow, field]

theorem extractLsb'_count_toNat (w : Word) : (w.extractLsb' 0 12).toNat = field w 11 0 := by
  rw [BitVec.extractLsb'_toNat, Nat.shiftRight_eq_div_pow, field]

/-- The mask of format Z asks for its reserved bits (R64). -/
theorem and_maskZ_eq_zero_iff (w : Word) : w &&& 0x0FFFFFFF#32 = 0 ↔ rsvZ w = 0 := by
  have hop : opField (w &&& 0x0FFFFFFF#32) = 0 := field_and_of_zero w (by decide)
  have hrsv : rsvZ (w &&& 0x0FFFFFFF#32) = rsvZ w := field_and_of_ones w (by decide)
  rw [eq_iff_fieldsZ, hop, hrsv]
  simp [opField, rsvZ, field]

/-- The mask of format G asks for its two reserved fields (R64). -/
theorem and_maskG_eq_zero_iff (w : Word) : w &&& 0x0FFCF000#32 = 0 ↔ rsvGClear w = true := by
  have hop : opField (w &&& 0x0FFCF000#32) = 0 := field_and_of_zero w (by decide)
  have hrsv1 : field (w &&& 0x0FFCF000#32) 27 18 = field w 27 18 := field_and_of_ones w (by decide)
  have hbuf : field (w &&& 0x0FFCF000#32) 17 16 = 0 := field_and_of_zero w (by decide)
  have hrsv2 : field (w &&& 0x0FFCF000#32) 15 12 = field w 15 12 := field_and_of_ones w (by decide)
  have hcount : field (w &&& 0x0FFCF000#32) 11 0 = 0 := field_and_of_zero w (by decide)
  rw [eq_iff_fieldsG, hop, hrsv1, hbuf, hrsv2, hcount, rsvGClear_iff]
  simp [opField, field]

theorem decode_of_reservedOpcode {w : Word} (h : 6 ≤ opField w) : decode w = .reject .reservedOpcode := by
  unfold decode
  split
  case h_7 => rfl
  all_goals omega

theorem decodeZ_of_clear (i : Instr) {w : Word} (h : rsvZ w = 0) : decodeZ i w = .command i := if_pos h

theorem decodeZ_of_set (i : Instr) {w : Word} (h : rsvZ w ≠ 0) : decodeZ i w = .reject .reservedBits := if_neg h

theorem decodeG_of_set {w : Word} (h : rsvGClear w ≠ true) : decodeG w = .reject .reservedBits := if_neg h

/-- A defined opcode of format Z with a reserved bit set is rejected with code 2. -/
theorem decode_of_reservedBitsZ {w : Word} (hop : opField w ≤ 4) (hrsv : rsvZ w ≠ 0) :
    decode w = .reject .reservedBits := by
  have hcases : opField w = 0 ∨ opField w = 1 ∨ opField w = 2 ∨ opField w = 3 ∨ opField w = 4 := by omega
  unfold decode
  rcases hcases with h | h | h | h | h <;> rw [h] <;> exact decodeZ_of_set _ hrsv

/-- Each opcode of format Z with clear reserved bits is its command. -/
theorem decode_of_clearZ {w : Word} {i : Instr} (hop : opField w = opcode i) (hrsv : rsvZ w = 0) (hi : opcode i ≠ 5) :
    decode w = .command i := by
  unfold decode
  rw [hop]
  cases i
  case generate => exact absurd rfl hi
  all_goals exact decodeZ_of_clear _ hrsv

/-- Settles O3: the procedure's masks are the reserved fields, by which each opcode's arm of the decoder goes. -/
theorem decodingFollowsTheDecodeProcedure : Obligations.DecodingFollowsTheDecodeProcedure := by
  intro w
  rw [extractLsb'_op_toNat, extractLsb'_buf_toNat, extractLsb'_count_toNat, and_maskZ_eq_zero_iff, Ne,
    and_maskG_eq_zero_iff, Ne, and_maskZ_eq_zero_iff]
  refine ⟨decode_of_reservedOpcode, ?setG, decode_of_reservedBitsZ, ?clearG, fun hrsv => ?clearZ, fun s => ⟨?code1, ?code2⟩⟩
  case setG =>
    intro hop hrsv
    rw [decode_of_opField_five hop, decodeG_of_set hrsv]
  case clearG =>
    intro hop hrsv
    rw [decode_of_opField_five hop, decodeG_eq_command_iff]
    exact ⟨hrsv, rfl⟩
  case clearZ =>
    exact ⟨fun hop => decode_of_clearZ (i := .nop) hop hrsv (by decide),
      fun hop => decode_of_clearZ (i := .trigger) hop hrsv (by decide),
      fun hop => decode_of_clearZ (i := .setVolume) hop hrsv (by decide),
      fun hop => decode_of_clearZ (i := .start) hop hrsv (by decide),
      fun hop => decode_of_clearZ (i := .shutdown) hop hrsv (by decide)⟩
  case code1 =>
    intro h
    rw [Machine.execWord, h]
    rfl
  case code2 =>
    intro h
    rw [Machine.execWord, h]
    rfl

/-- Settles O5: the words are short enough for the decoder to be run on them. -/
theorem writtenOutWordsDecode : Obligations.WrittenOutWordsDecode := by
  unfold Obligations.WrittenOutWordsDecode
  decide

end Sys2Proof
end

section
/-! Everything a step can do, in one list. The statements about every step go through this list case by case, so that none of them
takes the step apart again. -/

namespace Sys2Proof.Machine

/-! ## The effects -/

/-- The next event is the command i (R86). -/
def State.NextCommand (s : State) (i : Instr) : Prop := ∃ e, s.NextEvent e ∧ e.Commands i

/-- The next event is an admitted write of w to register r (R95). -/
def State.NextWrite (s : State) (r : Reg) (w : Word) : Prop := ∃ e, s.NextEvent e ∧ e.Writes r w

/-- The next turn is the agent's: its event is next, or no event is given and the block goes on by itself (R104, log 7). -/
def State.TurnOf (s : State) (a : Agent) : Prop := s.NextEvent (turnOf a) ∨ s.schedule = []

/-- What a step from s can leave, where p is s with its schedule and the wait of the idle rule moved on. -/
inductive Effect (s p : State) : State → Prop
  /-- A read, an ignored write, a command without effect, a skipped turn, or a change of sink_ready. -/
  | quiet (r : BusResp) (d : Nat) (level : Bool) : Effect s p { p with busResp := r, draws := d, sinkReady := level }
  /-- A rejected transaction, a rejected word or a refused command (R45, R64, R91, R93). -/
  | raised (c : ErrCode) (info : Word) (r : BusResp) (hc : c ≠ .none) : Effect s p ((p.raiseError c info).respond r)
  | statusWrite (w : Word) (h : s.NextWrite .status w) : Effect s p ((p.clearSticky w).respond .done)
  | freqArgWrite (w : Word) (h : s.NextWrite .freqArg w) :
    Effect s p (State.respond { p with freqArg := warl freqMax w } .done)
  | volArgWrite (w : Word) (h : s.NextWrite .volArg w) :
    Effect s p (State.respond { p with volArg := warl volOne w } .done)
  | masterGainWrite (w : Word) (h : s.NextWrite .masterGain w) :
    Effect s p (State.respond { p with masterGain := warl volOne w } .done)
  | trigger (h : s.NextCommand .trigger) :
    Effect s p ((p.setSynth (triggered p.cfg.variant p.freqArg p.volArg)).respond .done)
  | setVolume (h : s.NextCommand .setVolume) :
    Effect s p ((p.setSynth { p.synth with volume := p.volArg }).respond .done)
  | start (h : s.NextCommand .start) (hstop : p.running = false) (hsink : p.sinkReady = true) :
    Effect s p (State.respond { p.prime with running := true } .done)
  | shutdown (h : s.NextCommand .shutdown) (hrun : p.running = true) : Effect s p (p.dispose.respond .done)
  | generate (b n : Nat) (hstop : p.running = false) (hb : b < p.cfg.numBuf.toNat) (hn : n ≤ p.cfg.bufFrames.toNat) :
    Effect s p ((p.advanceInto b n).respond .done)
  | underrun (h : s.TurnOf .sink) (hrun : p.running = true) (hpq : p.pq = []) : Effect s p p.underrunStep
  | consume (b : Nat) (rest : List Nat) (h : s.TurnOf .sink) (hrun : p.running = true) (hpq : p.pq = b :: rest)
    (hb : b < p.cfg.numBuf.toNat) : Effect s p (p.consumeStep b rest)
  | fill (b : Nat) (rest : List Nat) (h : s.TurnOf .fill) (hrun : p.running = true) (hfq : p.fq = b :: rest)
    (hb : b < p.cfg.numBuf.toNat) : Effect s p (State.fillPass { p with fq := rest } b)
  | reset (h : s.NextEvent .reset) : Effect s p p.afterReset

/-! ## A step has one of them -/

section
variable {s p t : State}

theorem rejectCode_ne_none (r : Reject) : rejectCode r ≠ .none := by cases r <;> decide

/-- The command that a written word runs, or its rejection, is one of the effects. -/
theorem execWord_effect {w : Word} (hw : s.NextEvent (cmdWrite w)) (h : execWord w p = .next t) :
    Effect s p (t.respond .done) := by
  obtain ⟨i, hd, hi⟩ | ⟨r, -, rfl⟩ := execWord_cases h
  case inr => exact .raised _ _ _ (rejectCode_ne_none r)
  have hcmd : s.NextCommand i := ⟨cmdWrite w, hw, w, rfl, hd⟩
  obtain ⟨rfl, rfl⟩ | ⟨rfl, rfl⟩ | ⟨rfl, rfl⟩ | ⟨rfl, hrun, rfl⟩ | ⟨rfl, hstop, hsink, rfl⟩ | ⟨rfl, hstop, hsink, rfl⟩ |
    ⟨rfl, hrun, rfl⟩ | ⟨rfl, hstop, rfl⟩ | ⟨b, n, rfl, hrun, rfl⟩ | ⟨b, n, rfl, hstop, hrange, rfl⟩ |
    ⟨b, n, rfl, hstop, hb, hn, rfl⟩ := exec_cases hi
  · exact .quiet .done t.draws t.sinkReady
  · exact .trigger hcmd
  · exact .setVolume hcmd
  · exact .raised _ _ _ (by decide)
  · exact .raised _ _ _ (by decide)
  · exact .start hcmd hstop hsink
  · exact .shutdown hcmd hrun
  · exact .quiet .done t.draws t.sinkReady
  · exact .raised _ _ _ (by decide)
  · exact .raised _ _ _ (by decide)
  · exact .generate b n hstop hb hn

/-- A host transaction has one of the effects, and a write has its register's. -/
theorem hostStep_effect {x : Txn} (hx : s.NextEvent (.host x)) (h : hostStep x p = .next t) : Effect s p t := by
  obtain ⟨a, n, -, -, rfl⟩ | ⟨a, rfl, -, rfl⟩ | ⟨a, w, u, rfl, -, hu, rfl⟩ := hostStep_cases h
  · exact .raised _ _ _ (by decide)
  · obtain hr | hr := p.afterRead_cases a
    all_goals
      rw [hr]
      exact .quiet _ _ p.sinkReady
  · have hwrite : ∀ {r : Reg}, placeAt p.cfg a = .reg r → s.NextWrite r w := fun hp =>
      ⟨_, hx, by rw [eq_of_placeAt_reg hp]; rfl⟩
    obtain ⟨hp, he⟩ | ⟨hp, rfl⟩ | ⟨hp, rfl⟩ | ⟨hp, rfl⟩ | ⟨hp, rfl⟩ | ⟨-, -, -, -, -, rfl⟩ := writePlace_cases hu
    · rw [eq_of_placeAt_reg hp] at hx
      exact execWord_effect hx he
    · exact .statusWrite w (hwrite hp)
    · exact .freqArgWrite w (hwrite hp)
    · exact .volArgWrite w (hwrite hp)
    · exact .masterGainWrite w (hwrite hp)
    · exact .quiet .done u.draws u.sinkReady

theorem sinkStep_effect (hturn : s.TurnOf .sink) (h : sinkStep p = .next t) : Effect s p t := by
  obtain ⟨-, rfl⟩ | ⟨hrun, hpq, rfl⟩ | ⟨b, rest, hrun, hpq, hb, rfl⟩ := sinkStep_cases h
  · exact .quiet t.busResp t.draws t.sinkReady
  · exact .underrun hturn hrun hpq
  · exact .consume b rest hturn hrun hpq hb

theorem fillStep_effect (hturn : s.TurnOf .fill) (h : fillStep p = .next t) : Effect s p t := by
  obtain ⟨-, rfl⟩ | ⟨-, -, rfl⟩ | ⟨b, rest, hrun, hfq, hb, rfl⟩ := fillStep_cases h
  · exact .quiet t.busResp t.draws t.sinkReady
  · exact .quiet t.busResp t.draws t.sinkReady
  · exact .fill b rest hturn hrun hfq hb

theorem perform_effect {e : Event} (he : s.NextEvent e) (h : perform e p = .next t) : Effect s p t := by
  obtain ⟨x, rfl, hx⟩ | ⟨rfl, hs⟩ | ⟨rfl, hf⟩ | ⟨rfl, rfl⟩ | ⟨level, rfl, rfl⟩ := perform_cases h
  · exact hostStep_effect he hx
  · exact sinkStep_effect (.inl he) hs
  · exact fillStep_effect (.inl he) hf
  · exact .reset he
  · exact .quiet p.busResp p.draws level

theorem nextEvent_of_schedule {e : Event} {rest : List Event} (h : s.schedule = e :: rest) : s.NextEvent e := by
  rw [State.NextEvent, h, List.head?_cons]

/-- A step has one of the effects, on the state with the schedule and the wait of the idle rule moved on. -/
theorem step_effect (h : step s = .next t) : ∃ es n, Effect s { s with schedule := es, fillWait := n } t := by
  obtain ⟨e, rest, hs, hp⟩ | ⟨hs, -, n, ⟨-, hsink⟩ | ⟨-, hfill⟩⟩ | ⟨-, -, rfl⟩ := step_cases h
  · exact ⟨rest, s.fillWait, perform_effect (nextEvent_of_schedule hs) hp⟩
  · exact ⟨s.schedule, n, sinkStep_effect (.inr hs) hsink⟩
  · exact ⟨s.schedule, n, fillStep_effect (.inr hs) hfill⟩
  · exact ⟨t.schedule, t.fillWait, .quiet t.busResp t.draws t.sinkReady⟩

end

/-! ## Rules on every step -/

/-- The fields that priming leaves as they are, and those it gives a value (R91). -/
theorem State.prime_fields (s : State) : s.prime = { s with
    synth := s.prime.synth
    mem := s.prime.mem
    pq := s.pq ++ List.range s.cfg.numBuf.toNat
    fillCount := s.fillCount + BitVec.ofNat 32 s.cfg.numBuf.toNat
    fillTime := Config.freeWord (s.draws + s.cfg.numBuf.toNat - 1)
    fillTimeHeld := true
    draws := s.draws + s.cfg.numBuf.toNat } := by
  have hpos : s.cfg.numBuf.toNat ≠ 0 := by cases s.cfg.numBuf <;> decide
  have h := primed_fields s s.cfg.numBuf.toNat
  rw [if_neg hpos, show (s.fillTimeHeld || s.cfg.numBuf.toNat != 0) = true by simp [hpos]] at h
  exact h

/-- Priming advances SynthState by all its passes' steps (R91). -/
theorem State.prime_synth (s : State) : s.prime.synth =
    (advance s.cfg.variant s.masterGain (s.cfg.numBuf.toNat * s.cfg.bufFrames.toNat) s.synth).2 :=
  primed_synth s s.cfg.numBuf.toNat

/-- Settles O50: no effect writes the build, priming and reset included. -/
theorem noStepWritesTheBuild : Obligations.NoStepWritesTheBuild := by
  intro s t h
  obtain ⟨es, n, he⟩ := step_effect h
  cases he
  case start => rw [State.prime_fields]; rfl
  all_goals rfl

/-- Settles O51: the effects that write an argument register are its own write and a reset. -/
theorem argumentsChangeOnlyByTheirWriteOrReset : Obligations.ArgumentsChangeOnlyByTheirWriteOrReset := by
  intro s t h
  obtain ⟨es, n, he⟩ := step_effect h
  cases he
  case freqArgWrite w hw =>
    obtain ⟨e, hw⟩ := hw
    exact ⟨fun _ => .inr ⟨e, w, hw⟩, absurd rfl, absurd rfl⟩
  case volArgWrite w hw =>
    obtain ⟨e, hw⟩ := hw
    exact ⟨absurd rfl, fun _ => .inr ⟨e, w, hw⟩, absurd rfl⟩
  case masterGainWrite w hw =>
    obtain ⟨e, hw⟩ := hw
    exact ⟨absurd rfl, absurd rfl, fun _ => .inr ⟨e, w, hw⟩⟩
  case reset hr => exact ⟨fun _ => .inl hr, fun _ => .inl hr, fun _ => .inl hr⟩
  case start =>
    rw [State.prime_fields]
    exact ⟨absurd rfl, absurd rfl, absurd rfl⟩
  all_goals exact ⟨absurd rfl, absurd rfl, absurd rfl⟩

/-- Settles O52: priming is the one effect that ends running from a stopped block, and disposing and reset those that stop one. -/
theorem runningChangesOnlyByStartShutdownOrReset : Obligations.RunningChangesOnlyByStartShutdownOrReset := by
  intro s t h
  obtain ⟨es, n, he⟩ := step_effect h
  have differ : ∀ {b : Bool}, b = false → b ≠ true := Bool.eq_false_iff.mp
  cases he
  case start hcmd hstop hsink => exact ⟨fun _ _ => ⟨hsink, hcmd⟩, fun hrun => absurd hrun (differ hstop)⟩
  case shutdown hcmd hrun => exact ⟨fun hstop => absurd hrun (differ hstop), fun _ _ => .inr hcmd⟩
  case reset hr => exact ⟨fun _ hrun => absurd hrun Bool.false_ne_true, fun _ _ => .inl hr⟩
  all_goals exact ⟨fun hstop hrun => absurd hrun (differ hstop), fun hrun hstop => absurd hrun (differ hstop)⟩

/-- Settles O53: ADVANCE, by which priming, GENERATE and fill passes write SynthState, keeps FREQ and VOLUME. -/
theorem freqAndVolumeChangeOnlyByTheirCommands : Obligations.FreqAndVolumeChangeOnlyByTheirCommands := by
  intro s t h
  obtain ⟨es, n, he⟩ := step_effect h
  cases he
  case trigger hcmd =>
    obtain ⟨e, hnext, hc⟩ := hcmd
    exact ⟨fun _ => .inr ⟨e, hnext, .inl ⟨hc, rfl⟩⟩, fun _ => .inr ⟨e, hnext, .inl ⟨.inl hc, rfl⟩⟩⟩
  case setVolume hcmd =>
    obtain ⟨e, hnext, hc⟩ := hcmd
    exact ⟨absurd rfl, fun _ => .inr ⟨e, hnext, .inl ⟨.inr hc, rfl⟩⟩⟩
  case shutdown hcmd _ =>
    obtain ⟨e, hnext, hc⟩ := hcmd
    exact ⟨fun _ => .inr ⟨e, hnext, .inr ⟨hc, rfl⟩⟩, fun _ => .inr ⟨e, hnext, .inr ⟨hc, rfl⟩⟩⟩
  case reset hr => exact ⟨fun _ => .inl ⟨hr, rfl⟩, fun _ => .inl ⟨hr, rfl⟩⟩
  case start =>
    rw [State.respond_synth, State.prime_synth]
    exact ⟨absurd (advance_keeps _ _ _ _).1, absurd (advance_keeps _ _ _ _).2⟩
  case generate => exact ⟨absurd (advance_keeps _ _ _ _).1, absurd (advance_keeps _ _ _ _).2⟩
  case fill => exact ⟨absurd (advance_keeps _ _ _ _).1, absurd (advance_keeps _ _ _ _).2⟩
  all_goals exact ⟨absurd rfl, absurd rfl⟩

/-! ### The sticky bits -/

/-- Recording an error clears no sticky bit (R112). -/
theorem Sticky.set_keeps (k : Sticky) (c : ErrCode) : (k.initErr = true → (k.set c).initErr ≠ false) ∧
    (k.underrun = true → (k.set c).underrun ≠ false) ∧ (k.cmdErr = true → (k.set c).cmdErr ≠ false) ∧
    (k.busErr = true → (k.set c).busErr ≠ false) := by
  cases c <;> simp [Sticky.set]

theorem Sticky.w1c_zero (k : Sticky) : k.w1c 0 = k := by simp [Sticky.w1c]

/-- The sticky bits move by a W1C write or by the code of an error, `none` standing for no error; a reset clears them. -/
theorem Effect.sticky {s p t : State} (h : Effect s p t) : s.NextEvent .reset ∨
    (∃ w, s.NextWrite .status w ∧ t.sticky = p.sticky.w1c w) ∨ ∃ c, t.sticky = p.sticky.set c := by
  cases h
  case reset hr => exact .inl hr
  case statusWrite w hw => exact .inr (.inl ⟨w, hw, rfl⟩)
  case raised c _ _ _ => exact .inr (.inr ⟨c, rfl⟩)
  case underrun => exact .inr (.inr ⟨.underrun, rfl⟩)
  case start => exact .inr (.inr ⟨.none, by rw [State.prime_fields]; rfl⟩)
  all_goals exact .inr (.inr ⟨.none, rfl⟩)

/-- Settles O54: a W1C write clears the bits that it writes as 1, and an error clears none. -/
theorem stickyBitsClearOnlyByW1cOrReset : Obligations.StickyBitsClearOnlyByW1cOrReset := by
  intro s t h
  obtain ⟨es, n, he⟩ := step_effect h
  have written : ∀ {a b : Bool}, a = true → (a && !b) = false → b = true := by decide
  obtain hr | ⟨w, ⟨e, hnext, hw⟩, hk⟩ | ⟨c, hk⟩ := he.sticky
  · exact ⟨fun _ _ => .inl hr, fun _ _ => .inl hr, fun _ _ => .inl hr, fun _ _ => .inl hr⟩
  · rw [hk]
    exact ⟨fun hs ht => .inr ⟨e, w, hnext, hw, written hs ht⟩, fun hs ht => .inr ⟨e, w, hnext, hw, written hs ht⟩,
      fun hs ht => .inr ⟨e, w, hnext, hw, written hs ht⟩, fun hs ht => .inr ⟨e, w, hnext, hw, written hs ht⟩⟩
  · obtain ⟨hinit, hunderrun, hcmd, hbus⟩ := s.sticky.set_keeps c
    rw [hk]
    exact ⟨fun hs ht => absurd ht (hinit hs), fun hs ht => absurd ht (hunderrun hs), fun hs ht => absurd ht (hcmd hs),
      fun hs ht => absurd ht (hbus hs)⟩

/-! ### The counters and the trace -/

/-- Settles O55: the passes of priming and of the fill engine are the effects that count, GENERATE's ADVANCE counts none. -/
theorem fillCountCountsPasses : Obligations.FillCountCountsPasses := by
  intro s t h
  obtain ⟨es, n, he⟩ := step_effect h
  cases he
  case start hcmd _ _ =>
    obtain ⟨e, hnext, hc⟩ := hcmd
    rw [State.prime_fields]
    exact fun _ => .inr (.inl ⟨e, hnext, hc, rfl⟩)
  case fill hturn _ hfq _ => exact fun _ => .inr (.inr ⟨hturn, by simp [show s.fq = _ from hfq], rfl⟩)
  case reset hr => exact fun _ => .inl ⟨hr, rfl⟩
  all_goals exact absurd rfl

/-- Settles O56: the two effects of a running sink append one event each. -/
theorem traceGrowsByAtMostOneEvent : Obligations.TraceGrowsByAtMostOneEvent := by
  intro s t h hreset
  obtain ⟨es, n, he⟩ := step_effect h
  cases he
  case underrun hturn hrun _ => exact .inr ⟨_, rfl, hrun, hturn⟩
  case consume hturn hrun _ _ => exact .inr ⟨_, rfl, hrun, hturn⟩
  case reset hr => exact absurd hr hreset
  case start => exact .inl (by rw [State.prime_fields]; rfl)
  all_goals exact .inl rfl

/-- Settles O29: an effect records one error through `State.raiseError`, or writes no error register but by W1C. -/
theorem oneStepOneError : Obligations.OneStepOneError := by
  intro s t h hreset
  obtain ⟨es, n, he⟩ := step_effect h
  have kept : ∃ w, s.sticky = s.sticky.w1c w := ⟨0, s.sticky.w1c_zero.symm⟩
  cases he
  case raised hc => exact .inr ⟨rfl, hc, rfl⟩
  case underrun => exact .inr ⟨rfl, ErrCode.noConfusion, rfl⟩
  case statusWrite w _ => exact .inl ⟨rfl, rfl, rfl, w, rfl⟩
  case reset hr => exact absurd hr hreset
  case start =>
    rw [State.prime_fields]
    exact .inl ⟨rfl, rfl, rfl, kept⟩
  all_goals exact .inl ⟨rfl, rfl, rfl, kept⟩

/-! ## The information word of a command's error -/

/-- A command records nothing, or an error with its own word (R91, R93, R111). -/
theorem exec_errInfo {i : Instr} {s t : State} (h : exec i s = .next t) :
    t.errCount = s.errCount ∨ t.errInfo = encode i := by
  obtain ⟨-, rfl⟩ | ⟨-, rfl⟩ | ⟨-, rfl⟩ | ⟨rfl, -, rfl⟩ | ⟨rfl, -, -, rfl⟩ | ⟨-, -, -, rfl⟩ | ⟨-, -, rfl⟩ | ⟨-, -, rfl⟩ |
    ⟨-, -, -, -, rfl⟩ | ⟨-, -, -, -, -, rfl⟩ | ⟨-, -, -, -, -, -, rfl⟩ := exec_cases h
  · exact .inl rfl
  · exact .inl rfl
  · exact .inl rfl
  · exact .inr rfl
  · exact .inr rfl
  · exact .inl (by rw [State.prime_fields])
  · exact .inl rfl
  · exact .inl rfl
  · exact .inr rfl
  · exact .inr rfl
  · exact .inl rfl

/-- Settles O17: a command that decodes from a word has no other word, so its encoding is the word that was written. -/
theorem commandErrorCarriesTheWrittenWord : Obligations.CommandErrorCarriesTheWrittenWord := by
  intro w s t h hcount
  obtain ⟨i, hd, hi⟩ | ⟨r, -, rfl⟩ := execWord_cases h
  case inl =>
    have hword : encode i = w := (acceptedWordIsItsCommandsEncoding w i hd).2
    rw [← hword]
    exact (exec_errInfo hi).resolve_left hcount
  case inr => rfl

end Sys2Proof.Machine
end

section
/-! Rounding and the sounding steps by their numbers (R9, R68, R73 to R79), what writes ENV (R75), and which registers a sample does
not depend on (R24, R73). -/

namespace Sys2Proof.Machine

/-! ## Rounding (R9) -/

/-- Rounding a natural number is to the nearest, and a half goes up. -/
theorem rha_natCast_nearest (k : Nat) {d : Nat} (hd : 0 < d) :
    2 * |d * rha k d - k| ≤ d ∧ (2 * |d * rha k d - k| = d → |(k : Int)| < d * |rha k d|) := by
  have hround := rounded_quotient k d hd
  rw [rha_natCast k d hd, Nat.abs_cast, Nat.abs_cast, ← Nat.cast_mul]
  rw [Nat.mul_assoc 2 d] at hround
  generalize d * ((2 * k + d) / (2 * d)) = m at hround
  obtain ⟨habs, -⟩ | ⟨habs, -⟩ := abs_cases ((m : Int) - k)
  all_goals
    rw [habs]
    omega

/-- Settles O18: `rha` is odd, so the case of a natural number is all. -/
theorem roundingIsToNearestHalfAwayFromZero : Obligations.RoundingIsToNearestHalfAwayFromZero := by
  intro n d hd
  obtain ⟨k, rfl | rfl⟩ := Int.eq_nat_or_neg n
  case inl => exact rha_natCast_nearest k hd
  case inr =>
    have hsub : (d : Int) * rha (-k) d - -k = -(d * rha k d - k) := by rw [rha_neg]; ring
    rw [hsub, rha_neg, abs_neg, abs_neg, abs_neg]
    exact rha_natCast_nearest k hd

/-- The phase increment with its numbers (R68). -/
theorem phaseInc_eq (f : Word) : phaseInc f = (2 * (f.toNat * 2 ^ 16) + 44100) / (2 * 44100) := rfl

/-- Settles O19: the increment is the quotient that rounds half up. -/
theorem phaseIncrementIsRoundedAndBounded : Obligations.PhaseIncrementIsRoundedAndBounded := by
  refine ⟨fun f => ?rounded, fun f hf => ?bounded, by decide, by decide, by decide⟩
  case rounded =>
    rw [phaseInc_eq]
    omega
  case bounded =>
    rw [phaseInc_eq]
    omega

/-! ## The sounding steps -/

/-- The order of the two bounds of a clamp does not matter. -/
theorem clamp_eq_max_min (x : Int) {lo hi : Int} (h : lo ≤ hi) : clamp x lo hi = max lo (min hi x) := by
  unfold clamp
  omega

theorem clampSample_eq (x : Int) : clampSample x = max (-32767) (min 32767 x) := clamp_eq_max_min x (by decide)

/-- Within the note the age is a natural number (R72). -/
theorem noteAge_eq_natCast {v : Variant} {sr : Word} (h : sr.toNat ≤ noteLen v) :
    noteAge v sr = (noteLen v - sr.toNat : Nat) := by
  rw [noteAge]
  omega

/-- The SIMPLE envelope in natural numbers (R73). -/
theorem envSimple_natCast (age : Nat) (sr : Word) : envSimple age sr =
    (min (min (2 ^ 30) (age * 2 ^ 30 / 200)) (min (2 ^ 30) (sr.toNat * 2 ^ 30 / 2000)) : Nat) := by
  unfold envSimple envOne attackS releaseS
  omega

/-- The FM envelope in natural numbers (R74). -/
theorem envFm_natCast (age : Nat) (env : Word) :
    envFm age env = (if age < 100 then age * 2 ^ 30 / 100 else env.toNat : Nat) := by
  unfold envFm envOne attackF
  split <;> split <;> omega

/-- The modulated phase is a sum of words (R77). -/
theorem carrierPhase_eq_add (phase : Word) (m : Int) : carrierPhase phase m = phase + BitVec.ofInt 32 m := by
  rw [carrierPhase, BitVec.ofInt_add, BitVec.ofInt_natCast, BitVec.ofNat_toNat, BitVec.setWidth_eq]

/-- The hard-clipped carrier with its numbers (R77). -/
theorem carrier_eq (phase : Word) (m : Int) :
    carrier phase m = max (-26214) (min 26214 (sine (phase + BitVec.ofInt 32 m))) := by
  rw [← carrierPhase_eq_add]
  exact clamp_eq_max_min _ (by decide)

/-- Settles O21: a SIMPLE step with its age and envelope in natural numbers. -/
theorem simpleSoundingStep : Obligations.SimpleSoundingStep := by
  intro g y hsr hlen
  have henv := envSimple_natCast (5292 - y.samplesRemaining.toNat) y.samplesRemaining
  rw [← show noteAge .simple y.samplesRemaining = (5292 - y.samplesRemaining.toNat : Nat) from
    noteAge_eq_natCast (v := .simple) hlen] at henv
  constructor
  · rw [sampleStep_sample .simple g hsr, clampSample_eq, Synth.rawSample, rawSimple, henv, addPhase_eq_add]
  · rw [sampleStep_simple g y hsr, stepSimple, addPhase_eq_add, sub_one_eq _ hsr]

/-- Settles O22: an FM step with its age and envelope in natural numbers, and the carrier's phase as a sum of words. -/
theorem fmSoundingStep : Obligations.FmSoundingStep := by
  intro g y hsr hlen
  have hage : noteAge .fm y.samplesRemaining = (11025 - y.samplesRemaining.toNat : Nat) :=
    noteAge_eq_natCast (v := .fm) hlen
  have hattack : noteAge .fm y.samplesRemaining < attackF ↔ 11025 - y.samplesRemaining.toNat < 100 := by
    rw [hage]
    exact Nat.cast_lt
  have henv := envFm_natCast (11025 - y.samplesRemaining.toNat) y.env
  rw [← hage] at henv
  constructor
  · rw [sampleStep_sample .fm g hsr, clampSample_eq, Synth.rawSample, rawFm, carrier_eq, modulation, henv,
      addPhase_eq_add, addPhase_eq_add]
    rfl
  · rw [sampleStep_fm g y hsr, stepFm, addPhase_eq_add, addPhase_eq_add, sub_one_eq _ hsr]
    exact congrArg (Synth.mk _ _ _ _ _) (if_congr hattack rfl rfl)

/-! ## The decay register (R21, R75) -/

/-- KDEC is below 2^32, so a decay step does not raise ENV. -/
theorem decayEnv_le (env : Word) : (decayEnv env).toNat ≤ env.toNat := by
  have hdiv : env.toNat * kDec / 2 ^ 32 ≤ env.toNat :=
    Nat.div_le_of_le_mul (by rw [Nat.mul_comm]; exact Nat.mul_le_mul_right _ (by decide))
  rw [decayEnv, BitVec.toNat_ofNat]
  exact (Nat.mod_le _ _).trans hdiv

/-- The registers that a SIMPLE step writes leave ENV as it is, whatever they are written with. -/
theorem Synth.env_of_phase_samplesRemaining (y : Synth) (phase sr : Word) :
    ({ y with phase := phase, samplesRemaining := sr } : Synth).env = y.env := rfl

/-- No SIMPLE step writes ENV. -/
theorem sampleStep_simple_env (g : Word) (y : Synth) : (sampleStep .simple g y).2.env = y.env := by
  by_cases hsr : y.samplesRemaining = 0
  case pos => rw [sampleStep_silent .simple g y hsr]
  case neg =>
    rw [sampleStep_simple g y hsr]
    exact y.env_of_phase_samplesRemaining _ _

theorem sampleStep_env_le (v : Variant) (g : Word) (y : Synth) : (sampleStep v g y).2.env.toNat ≤ y.env.toNat := by
  by_cases hsr : y.samplesRemaining = 0
  case pos => rw [sampleStep_silent v g y hsr]
  case neg =>
    cases v
    case simple => rw [sampleStep_simple_env]
    case fm =>
      rw [sampleStep_fm g y hsr, stepFm]
      dsimp only
      split
      · exact le_rfl
      · exact decayEnv_le y.env

theorem advance_env_le (v : Variant) (g : Word) (n : Nat) (y : Synth) : (advance v g n y).2.env.toNat ≤ y.env.toNat :=
  advance_invariant v g (fun z => z.env.toNat ≤ y.env.toNat) (fun z hz => (sampleStep_env_le v g z).trans hz) n y le_rfl

/-- Settles O26: ENV never grows in a step, and only the FM decay writes it. -/
theorem decayRegisterNeverGrows : Obligations.DecayRegisterNeverGrows := by
  intro v g n y
  refine ⟨advance_env_le v g n y, ?simple, ?attack⟩
  case simple =>
    rintro rfl
    exact advance_invariant .simple g (fun z => z.env = y.env) (fun z hz => (sampleStep_simple_env g z).trans hz) n y rfl
  case attack =>
    rintro rfl - hrest
    exact advance_fm_env_of_attack g hrest

/-! ## What a sample does not read (R24, R73) -/

/-- An FM step does not read MASTER_GAIN. -/
theorem sampleStep_fm_gain (g g' : Word) (y : Synth) : sampleStep .fm g y = sampleStep .fm g' y := rfl

theorem advance_fm_gain (g g' : Word) (n : Nat) (y : Synth) : advance .fm g n y = advance .fm g' n y := by
  induction n generalizing y with
  | zero => rfl
  | succ n ih => rw [advance_succ, advance_succ, sampleStep_fm_gain g g', ih]

/-- A SIMPLE step reads neither ENV nor MOD_PHASE, and leaves both as they are. -/
theorem sampleStep_simple_unread (g e p : Word) (y : Synth) : sampleStep .simple g { y with env := e, modPhase := p } =
    ((sampleStep .simple g y).1, { (sampleStep .simple g y).2 with env := e, modPhase := p }) := by
  by_cases hsr : y.samplesRemaining = 0
  case pos => rw [sampleStep_silent .simple g y hsr, sampleStep_silent .simple g { y with env := e, modPhase := p } hsr]
  case neg =>
    rw [sampleStep_simple g y hsr, sampleStep_simple g { y with env := e, modPhase := p } hsr]
    rfl

theorem advance_simple_unread (g e p : Word) (n : Nat) (y : Synth) :
    (advance .simple g n { y with env := e, modPhase := p }).1 = (advance .simple g n y).1 := by
  induction n generalizing y with
  | zero => rfl
  | succ n ih => rw [advance_succ, advance_succ, sampleStep_simple_unread, ih]

/-- Settles O27: the steps do not read these registers, so by induction ADVANCE does not. -/
theorem unreadRegistersDoNotReachTheSamples : Obligations.UnreadRegistersDoNotReachTheSamples :=
  ⟨advance_fm_gain, advance_simple_unread⟩

end Sys2Proof.Machine
end

section
/-! The invariant (10_state.md R16 to R24, R34, R35): reset meets it, and every effect of a step keeps it. The parts that take an
argument are SynthState and the buffer RAM under ADVANCE, and the queues. -/

namespace Sys2Proof.Machine

/-! ## SynthState -/

theorem Synth.legal_zero (v : Variant) : Synth.zero.Legal v :=
  ⟨Nat.zero_le _, Nat.zero_le _, fun _ => rfl, Nat.zero_le _, Nat.zero_le _⟩

theorem triggered_legal (v : Variant) {f vol : Word} (hf : f.toNat ≤ freqMax) (hvol : vol.toNat ≤ volOne) :
    (triggered v f vol).Legal v :=
  ⟨hf, hvol, fun _ => rfl, (triggered_samplesRemaining_toNat v f vol).le,
    (by decide : (BitVec.ofNat 32 envOne).toNat ≤ envOne)⟩

theorem Synth.Legal.withVolume {v : Variant} {y : Synth} (h : y.Legal v) {vol : Word} (hvol : vol.toNat ≤ volOne) :
    ({ y with volume := vol } : Synth).Legal v :=
  { h with volume := hvol }

/-- ADVANCE keeps every legal value of SynthState. -/
theorem advance_legal {v : Variant} {y : Synth} (h : y.Legal v) (g : Word) (n : Nat) : (advance v g n y).2.Legal v := by
  obtain ⟨hfreq, hvolume⟩ := advance_keeps v g n y
  refine ⟨hfreq ▸ h.freq, hvolume ▸ h.volume, ?modPhase, ?samplesRemaining, (advance_env_le v g n y).trans h.env⟩
  case modPhase =>
    rintro rfl
    rw [advance_modPhase, h.modPhase rfl, modPhaseInc, Nat.mul_zero]
    rfl
  case samplesRemaining =>
    rw [advance_samplesRemaining]
    exact (Nat.sub_le _ _).trans h.samplesRemaining

theorem warl_le (limit : Nat) (w : Word) : (warl limit w).toNat ≤ limit := by
  rw [warl, BitVec.toNat_ofNat]
  exact (Nat.mod_le _ _).trans (Nat.min_le_right _ _)

/-! ## The buffer RAM -/

/-- A sample in range is not stored as the lowest pattern (R34, R80). -/
theorem u16_ne_lowest {x : Int} (h : -32767 ≤ x ∧ x ≤ 32767) : u16 x ≠ 0x8000#16 := by
  intro heq
  have hint := congrArg BitVec.toInt heq
  rw [u16, BitVec.toInt_ofInt, show (0x8000#16).toInt = -32768 by decide, Int.bmod_def] at hint
  split at hint <;> omega

section
variable {s t : State}

/-- The buffer RAM is legal by the build and the bytes alone. -/
theorem State.BufLegal.of_eq (h : s.BufLegal) (hcfg : t.cfg = s.cfg) (hmem : t.mem = s.mem) : t.BufLegal := by
  refine ⟨hmem ▸ h.canonical, by rw [hmem, hcfg]; exact h.inWindow, ?_⟩
  unfold State.frame
  rw [hmem, hcfg]
  exact h.noLowest

/-- ADVANCE into a buffer of the build keeps the buffer RAM legal. -/
theorem State.BufLegal.advanceInto (h : s.BufLegal) {b n : Nat} (hb : b < s.cfg.numBuf.toNat)
    (hn : n ≤ s.cfg.bufFrames.toNat) : (s.advanceInto b n).BufLegal := by
  refine ⟨s.advanceInto_wf b n h.canonical, fun c hc => ?inWindow, fun b' k hb' hk => ?noLowest⟩
  case inWindow =>
    obtain ⟨hbase, hend⟩ := frameAddr_in_window s.cfg hb
    rw [State.advanceInto_mem, Memory.mem_writeBlock] at hc
    obtain ⟨hold, -⟩ | hnew := hc
    · exact h.inWindow c hold
    · obtain ⟨hlo, hhi, -⟩ := Memory.mem_cells hnew
      rw [flatMap_frameBytes_length, List.length_map, advance_length] at hhi
      exact ⟨hbase.trans hlo, by rw [State.advanceInto_cfg]; omega⟩
  case noLowest =>
    obtain hne | rfl := ne_or_eq b' b
    · rw [s.advanceInto_frame_other b b' n k hn hk hne]
      exact h.noLowest b' k hb' hk
    obtain hkn | hkn := lt_or_ge k n
    · have hlen : k < (advance s.cfg.variant s.masterGain n s.synth).1.length := by rwa [advance_length]
      rw [s.advanceInto_frame b' n k hkn, List.getD_eq_getElem _ _ hlen]
      exact u16_ne_lowest (advance_range _ _ _ _ _ (List.getElem_mem hlen))
    · rw [s.advanceInto_frame_after b' n k hkn]
      exact h.noLowest b' k hb' hk

/-- With no byte listed every frame is 0 (R38, log 11). -/
theorem State.frame_of_mem_nil (h : s.mem = []) (b k : Nat) : s.frame b k = 0 := by
  rw [State.frame, Memory.readFrame, h, Memory.read_nil, Memory.read_nil]
  decide

theorem State.BufLegal.fillPass (h : s.BufLegal) {b : Nat} (hb : b < s.cfg.numBuf.toNat) : (s.fillPass b).BufLegal :=
  (h.advanceInto hb le_rfl).of_eq rfl rfl

/-- Priming buffers of the build keeps the buffer RAM legal. -/
theorem State.BufLegal.primed (h : s.BufLegal) {n : Nat} (hn : n ≤ s.cfg.numBuf.toNat) : (primed s n).BufLegal := by
  induction n with
  | zero => exact h
  | succ n ih =>
    have hcfg : (Machine.primed s n).cfg = s.cfg := by rw [primed_fields]
    rw [primed_succ]
    exact (ih (by omega)).fillPass (hcfg ▸ hn)

theorem State.BufLegal.dispose (h : s.BufLegal) : s.dispose.BufLegal := by
  refine ⟨Memory.wf_clearRange h.canonical _ _, fun c hc => h.inWindow c (List.mem_filter.mp hc).1, fun b k hb hk => ?_⟩
  rw [s.dispose_frame hb hk]
  decide

/-! ## The queues -/

/-- A queue entry names a buffer of the build (R35). -/
theorem State.QueuesLegal.lt (h : s.QueuesLegal) {b : Nat} (hb : b ∈ s.pq ∨ b ∈ s.fq) : b < s.cfg.numBuf.toNat := by
  obtain ⟨hrun, hstop⟩ := h
  cases hr : s.running
  case false =>
    obtain ⟨hpq, hfq⟩ := hstop hr
    simp [hpq, hfq] at hb
  case true => exact List.mem_range.mp ((hrun hr).subset (List.mem_append.mpr hb))

/-- CONSUME moves the head of PQ to the end of FQ. -/
theorem State.QueuesLegal.consume (h : s.QueuesLegal) (hrun : s.running = true) {b : Nat} {rest : List Nat}
    (hpq : s.pq = b :: rest) : (s.consumeStep b rest).QueuesLegal := by
  refine ⟨fun _ => ?_, fun hstop => absurd (hrun.symm.trans hstop) (by decide)⟩
  have hperm := h.1 hrun
  rw [hpq] at hperm
  refine List.Perm.trans ?_ hperm
  rw [State.consumeStep_pq, State.consumeStep_fq, ← List.append_assoc]
  exact List.perm_append_singleton b (rest ++ s.fq)

/-- A fill pass moves the head of FQ to the end of PQ. -/
theorem State.QueuesLegal.fill (h : s.QueuesLegal) (hrun : s.running = true) {b : Nat} {rest : List Nat}
    (hfq : s.fq = b :: rest) : (State.fillPass { s with fq := rest } b).QueuesLegal := by
  refine ⟨fun _ => ?_, fun hstop => absurd (hrun.symm.trans hstop) (by decide)⟩
  have hperm := h.1 hrun
  rw [hfq, List.append_cons] at hperm
  exact hperm

/-! ## The effects -/

/-- Recording an error of a code other than 0 keeps the invariant: the count moves with the cause and the sticky bit. -/
theorem State.Inv.raiseError (h : s.Inv) {c : ErrCode} (hc : c ≠ .none) (info : Word) : (s.raiseError c info).Inv :=
  { h with
    buf := h.buf.of_eq rfl rfl
    errors := iff_of_false hc (Nat.succ_ne_zero _)
    stickyBits := fun _ => Nat.succ_ne_zero _ }

theorem State.Inv.respond (h : s.Inv) (r : BusResp) : (s.respond r).Inv := { h with buf := h.buf.of_eq rfl rfl }

theorem State.Inv.setSynth (h : s.Inv) {y : Synth} (hy : y.Legal s.cfg.variant) : (s.setSynth y).Inv :=
  { h with synth := hy, buf := h.buf.of_eq rfl rfl }

/-- Appending a legal event keeps the invariant. -/
theorem State.Inv.emit (h : s.Inv) {e : OutEvent} (he : e.Legal s.cfg) : (s.emit e).Inv :=
  { h with
    buf := h.buf.of_eq rfl rfl
    trace := fun x hx => (List.mem_append.mp hx).elim (h.trace x) fun hx => List.mem_singleton.mp hx ▸ he }

theorem State.Inv.clearSticky (h : s.Inv) (w : Word) : (s.clearSticky w).Inv :=
  { h with
    buf := h.buf.of_eq rfl rfl
    stickyBits := fun hset => h.stickyBits fun hclear => hset (congrArg (Sticky.w1c · w) hclear) }

theorem State.Inv.advanceInto (h : s.Inv) {b n : Nat} (hb : b < s.cfg.numBuf.toNat) (hn : n ≤ s.cfg.bufFrames.toNat) :
    (s.advanceInto b n).Inv :=
  { h with synth := advance_legal h.synth _ _, buf := h.buf.advanceInto hb hn }

/-- A started block has every buffer in PQ. -/
theorem State.Inv.start (h : s.Inv) (hstop : s.running = false) : State.Inv { s.prime with running := true } := by
  obtain ⟨hpq, hfq⟩ := h.queues.2 hstop
  have hbuf : s.prime.BufLegal := h.buf.primed le_rfl
  have hsynth : s.prime.synth.Legal s.cfg.variant := s.prime_synth ▸ advance_legal h.synth _ _
  rw [State.prime_fields] at hbuf hsynth ⊢
  refine { h with
    synth := hsynth, buf := hbuf.of_eq rfl rfl, queues := ⟨fun _ => ?_, fun hfalse => absurd hfalse.symm Bool.false_ne_true⟩ }
  simp [hpq, hfq]

theorem State.Inv.dispose (h : s.Inv) : s.dispose.Inv :=
  { h with
    synth := Synth.legal_zero _
    queues := ⟨fun hrun => absurd hrun Bool.false_ne_true, fun _ => ⟨rfl, rfl⟩⟩
    buf := h.buf.dispose }

theorem State.Inv.consumeStep (h : s.Inv) (hrun : s.running = true) {b : Nat} {rest : List Nat} (hpq : s.pq = b :: rest)
    (hb : b < s.cfg.numBuf.toNat) : (s.consumeStep b rest).Inv :=
  { h.emit (e := .play b (s.bufferFrames b)) ⟨hb, s.bufferFrames_length b⟩ with
    queues := h.queues.consume hrun hpq
    buf := h.buf.of_eq rfl rfl }

theorem State.Inv.fillPass (h : s.Inv) (hrun : s.running = true) {b : Nat} {rest : List Nat} (hfq : s.fq = b :: rest)
    (hb : b < s.cfg.numBuf.toNat) : (State.fillPass { s with fq := rest } b).Inv :=
  { h with
    synth := advance_legal h.synth _ _
    queues := h.queues.fill hrun hfq
    buf := (h.buf.of_eq rfl rfl : State.BufLegal { s with fq := rest }).fillPass hb }

theorem State.resetWith_inv (cfg : Config) (level : Bool) (es : List Event) (n : Nat) :
    (State.resetWith cfg level es n).Inv where
  synth := Synth.legal_zero _
  freqArg := Nat.zero_le _
  volArg := Nat.zero_le _
  masterGain := (by decide : (0x8000#32).toNat ≤ volOne)
  queues := ⟨fun hrun => absurd hrun Bool.false_ne_true, fun _ => ⟨rfl, rfl⟩⟩
  buf := ⟨Memory.wf_nil, fun _ hc => absurd hc List.not_mem_nil, fun b k _ _ => by
    rw [State.frame_of_mem_nil rfl]
    decide⟩
  trace := fun _ he => absurd he List.not_mem_nil
  errors := iff_of_true rfl rfl
  stickyBits := absurd rfl

end

/-- Settles O58: `State.reset` is the state after reset of the nominal build. -/
theorem resetMeetsTheInvariant : Obligations.ResetMeetsTheInvariant :=
  ⟨State.resetWith_inv _ _ _ _, State.resetWith_inv⟩

theorem Effect.inv {s p t : State} (h : p.Inv) (he : Effect s p t) : t.Inv := by
  cases he
  case quiet => exact { h with buf := h.buf.of_eq rfl rfl }
  case raised hc => exact (h.raiseError hc _).respond _
  case statusWrite w _ => exact (h.clearSticky w).respond _
  case freqArgWrite w _ => exact { h with freqArg := warl_le _ w, buf := h.buf.of_eq rfl rfl }
  case volArgWrite w _ => exact { h with volArg := warl_le _ w, buf := h.buf.of_eq rfl rfl }
  case masterGainWrite w _ => exact { h with masterGain := warl_le _ w, buf := h.buf.of_eq rfl rfl }
  case trigger => exact (h.setSynth (triggered_legal _ h.freqArg h.volArg)).respond _
  case setVolume => exact (h.setSynth (h.synth.withVolume h.volArg)).respond _
  case start hstop _ => exact (h.start hstop).respond _
  case shutdown => exact h.dispose.respond _
  case generate hb hn => exact (h.advanceInto hb hn).respond _
  case underrun => exact (h.emit (e := .gap) trivial).raiseError ErrCode.noConfusion _
  case consume hrun hpq hb => exact h.consumeStep hrun hpq hb
  case fill hrun hfq hb => exact h.fillPass hrun hfq hb
  case reset => exact State.resetWith_inv _ _ _ _

/-- Settles O59: the invariant reads neither the schedule nor the wait of the idle rule, and each effect keeps it. -/
theorem everyStepKeepsTheInvariant : Obligations.EveryStepKeepsTheInvariant := by
  intro s t h hstep
  obtain ⟨es, n, he⟩ := step_effect hstep
  have hmoved : State.Inv { s with schedule := es, fillWait := n } := { h with buf := h.buf.of_eq rfl rfl }
  exact he.inv hmoved

end Sys2Proof.Machine
end

section
/-! The commands START and GENERATE, the record of an error, and what the six commands leave alone (R86 to R93, R111, R112). -/

namespace Sys2Proof.Machine

/-! ## The record of an error -/

/-- The sticky bit of a code by the ranges of R112. -/
theorem Sticky.set_eq (k : Sticky) (c : ErrCode) : k.set c =
    { cmdErr := k.cmdErr || (decide (1 ≤ c.code) && decide (c.code ≤ 5))
      initErr := k.initErr || c.code == 6
      underrun := k.underrun || c.code == 7
      busErr := k.busErr || c.code == 8 } := by
  cases c <;> simp [Sticky.set, ErrCode.code]

/-- Settles O28: recording writes four fields, and the sticky bits by the code's range. -/
theorem raisingAnErrorIsItsRecord : Obligations.RaisingAnErrorIsItsRecord := by
  intro s c info
  rw [State.raiseError, Sticky.set_eq]

/-! ## What START and GENERATE do -/

section
variable {s : State}

theorem exec_start_of_running (h : s.running = true) :
    exec .start s = .next (s.raiseError .startWhileRunning (encode .start)) := if_pos h

theorem exec_start_of_sink_not_ready (hstop : s.running = false) (hsink : s.sinkReady = false) :
    exec .start s = .next (s.raiseError .initFail (encode .start)) := by
  simp [exec, execStart, hstop, hsink]

theorem exec_start_of_sink_ready (hstop : s.running = false) (hsink : s.sinkReady = true) :
    exec .start s = .next { s.prime with running := true } := by
  simp [exec, execStart, hstop, hsink]

theorem exec_generate_of_running (b n : Nat) (h : s.running = true) :
    exec (.generate b n) s = .next (s.raiseError .cmdWhileRunning (encode (.generate b n))) := if_pos h

theorem exec_generate_of_range {b n : Nat} (hstop : s.running = false)
    (h : s.cfg.numBuf.toNat ≤ b ∨ s.cfg.bufFrames.toNat < n) :
    exec (.generate b n) s = .next (s.raiseError .badArgument (encode (.generate b n))) := by
  simp [exec, execGenerate, hstop, h]

theorem exec_generate_in_range {b n : Nat} (hstop : s.running = false) (hb : b < s.cfg.numBuf.toNat)
    (hn : n ≤ s.cfg.bufFrames.toNat) : exec (.generate b n) s = .next (s.advanceInto b n) := by
  have hrange : ¬ (s.cfg.numBuf.toNat ≤ b ∨ s.cfg.bufFrames.toNat < n) := by omega
  simp [exec, execGenerate, hstop, hrange]

end

/-- Settles O11: a refusal is the record of its error, with START's one word. -/
theorem startIsRefusedWithItsRecord : Obligations.StartIsRefusedWithItsRecord := fun _ =>
  ⟨exec_start_of_running, exec_start_of_sink_not_ready⟩

/-- GENERATE's word as R66 writes it. -/
theorem encode_generate_eq (b n : Nat) : encode (.generate b n) = BitVec.ofNat 32 (0x50000000 + b * 0x10000 + n) := by
  rw [encode, opcode, operandBits]
  congr 1
  omega

/-- Settles O15: a refusal is the record of its error, with the command's word. -/
theorem generateIsRefusedWithItsRecord : Obligations.GenerateIsRefusedWithItsRecord := by
  intro s b n w
  have hw : encode (.generate b n) = w := encode_generate_eq b n
  rw [← hw]
  exact ⟨exec_generate_of_running b n, exec_generate_of_range⟩

/-- Priming leaves every byte outside the buffer window as it was (R91). -/
theorem State.prime_sameBytesOutside (s : State) : s.SameBytesOutside s.prime bufBase (windowEnd s.cfg) := by
  have hend : frameAddr s.cfg s.cfg.numBuf.toNat 0 = windowEnd s.cfg := by
    rw [frameAddr, windowEnd, Nat.add_zero, Nat.mul_assoc]
  exact fun a ha => primed_read_outside s _ a (hend.symm ▸ ha)

/-- Settles O12: a START that is not refused primes the buffers, and the laws of `primed` say what that leaves. -/
theorem startPrimesEveryBufferAndRuns : Obligations.StartPrimesEveryBufferAndRuns := by
  intro s hstop hsink nb bf adv
  refine ⟨{ s.prime with running := true }, exec_start_of_sink_ready hstop hsink, ?fields,
    fun b k hb hk => primed_frame s _ b k hb hk, s.prime_sameBytesOutside⟩
  case fields =>
    have hsynth : s.prime.synth = adv.2 := s.prime_synth
    rw [← hsynth]
    exact congrArg (fun u : State => { u with running := true }) s.prime_fields

/-- Settles O14: a GENERATE that is not refused is ADVANCE into the buffer. -/
theorem generateRendersIntoTheBuffer : Obligations.GenerateRendersIntoTheBuffer := fun s b n hstop hb hn =>
  ⟨s.advanceInto b n, exec_generate_in_range hstop hb hn, rfl, s.advanceInto_frame b n, s.advanceInto_read_outside b n⟩

/-! ## What the commands leave alone -/

/-- ADVANCE into a buffer of the build changes no byte outside the buffer window (R44, R93). -/
theorem State.advanceInto_sameBytesOutside (s : State) {b n : Nat} (hb : b < s.cfg.numBuf.toNat)
    (hn : n ≤ s.cfg.bufFrames.toNat) : s.SameBytesOutside (s.advanceInto b n) bufBase (windowEnd s.cfg) := by
  obtain ⟨hlo, hhi⟩ := frameAddr_in_window s.cfg hb
  exact fun a ha => s.advanceInto_read_outside b n a (by omega)

/-- No command writes the build, an argument register, the trace, the bus answer or the environment (R22 to R24, R86). -/
theorem exec_frame {i : Instr} {s t : State} (h : exec i s = .next t) :
    t.cfg = s.cfg ∧ t.freqArg = s.freqArg ∧ t.volArg = s.volArg ∧ t.masterGain = s.masterGain ∧ t.trace = s.trace ∧
      t.busResp = s.busResp ∧ t.sinkReady = s.sinkReady ∧ t.schedule = s.schedule ∧ t.fillWait = s.fillWait := by
  obtain ⟨-, rfl⟩ | ⟨-, rfl⟩ | ⟨-, rfl⟩ | ⟨-, -, rfl⟩ | ⟨-, -, -, rfl⟩ | ⟨-, -, -, rfl⟩ | ⟨-, -, rfl⟩ | ⟨-, -, rfl⟩ |
    ⟨-, -, -, -, rfl⟩ | ⟨-, -, -, -, -, rfl⟩ | ⟨-, -, -, -, -, -, rfl⟩ := exec_cases h
  case inr.inr.inr.inr.inr.inl =>
    rw [State.prime_fields]
    exact ⟨rfl, rfl, rfl, rfl, rfl, rfl, rfl, rfl, rfl⟩
  all_goals exact ⟨rfl, rfl, rfl, rfl, rfl, rfl, rfl, rfl, rfl⟩

/-- The commands that write bytes, START, SHUTDOWN and GENERATE, write them in the buffer window (R41). -/
theorem exec_sameBytesOutside {i : Instr} {s t : State} (h : exec i s = .next t) :
    s.SameBytesOutside t bufBase (windowEnd s.cfg) := by
  obtain ⟨-, rfl⟩ | ⟨-, rfl⟩ | ⟨-, rfl⟩ | ⟨-, -, rfl⟩ | ⟨-, -, -, rfl⟩ | ⟨-, -, -, rfl⟩ | ⟨-, -, rfl⟩ | ⟨-, -, rfl⟩ |
    ⟨-, -, -, -, rfl⟩ | ⟨-, -, -, -, -, rfl⟩ | ⟨b, n, -, -, hb, hn, rfl⟩ := exec_cases h
  case inr.inr.inr.inr.inr.inl => exact s.prime_sameBytesOutside
  case inr.inr.inr.inr.inr.inr.inl => exact s.dispose_sameBytesOutside
  case inr.inr.inr.inr.inr.inr.inr.inr.inr.inr => exact s.advanceInto_sameBytesOutside hb hn
  all_goals exact fun _ _ => rfl

/-- Settles O16: NOP, TRIGGER and SET_VOLUME touch SynthState at most, and SHUTDOWN disposes of the block or does nothing. -/
theorem commandsLeaveTheRestAlone : Obligations.CommandsLeaveTheRestAlone := by
  intro i s t h
  refine ⟨exec_frame h, exec_sameBytesOutside h, ?synthOnly, ?shutdown⟩
  case synthOnly =>
    rintro (rfl | rfl | rfl)
    case inl | inr.inl | inr.inr =>
      cases h
      exact ⟨fun _ => rfl, rfl, rfl, rfl, rfl, rfl, rfl, rfl, rfl⟩
  case shutdown =>
    rintro rfl
    cases hr : s.running
    case false =>
      rw [exec_shutdown_of_stopped hr] at h
      cases h
      exact ⟨rfl, rfl, rfl, rfl, rfl⟩
    case true =>
      rw [exec_shutdown_of_running hr] at h
      cases h
      exact ⟨rfl, rfl, rfl, rfl, rfl⟩

end Sys2Proof.Machine
end

section
/-! Host transactions at each register, at the window and off the map (R27, R33, R42, R45, R47, R94, R95). -/

namespace Sys2Proof.Machine

/-! ## The next event (R50, R86) -/

section
variable {s : State} {w : Word} {rest : List Event}

theorem execWord_of_command {i : Instr} (h : decode w = .command i) (s : State) : execWord w s = exec i s := by
  rw [execWord, h]

theorem execWord_of_reject {r : Reject} (h : decode w = .reject r) (s : State) :
    execWord w s = .next (s.raiseError (rejectCode r) w) := by
  rw [execWord, h]

/-- The step of a write to a register (R95). -/
theorem step_wrReg {r : Reg} (h : s.schedule = wrReg r w :: rest) :
    step s = answer .done (writePlace (.reg r) w { s with schedule := rest }) := by
  rw [step_cons h]
  exact hostStep_write_reg _ r _ w rfl

/-- The step of a write to CMD (R86). -/
theorem step_cmdWrite (h : s.schedule = cmdWrite w :: rest) :
    step s = answer .done (execWord w { s with schedule := rest }) := step_wrReg (r := .cmd) h

end

/-- Settles O6: the step of a schedule's head is that event performed, and an admitted write to CMD decodes its word. -/
theorem stepRunsTheWrittenCommand : Obligations.StepRunsTheWrittenCommand := by
  refine ⟨fun s w rest h => ⟨fun i hd => ?command, fun r hd => ?reject⟩, fun s e rest h => step_cons h,
    fun s => ⟨fun _ => rfl, rfl, rfl, rfl, fun _ => rfl⟩⟩
  case command => rw [step_cmdWrite h, execWord_of_command hd]
  case reject => rw [step_cmdWrite h, execWord_of_reject hd, answer_next]

/-! ## Rejected transactions (R45) -/

theorem not_admitted {a : Offset} {n : AccessSize} (h : n ≠ .word ∨ a.toNat % 4 ≠ 0) : admitted a n = false := by
  rw [Bool.eq_false_iff, Ne, admitted_iff]
  tauto

/-- Settles O31: a transaction that is not admitted is rejected, whatever its kind. -/
theorem rejectedTransactionOnlyRecords : Obligations.RejectedTransactionOnlyRecords := by
  intro s a n w h t
  have ha := not_admitted h
  have hreject : s.rejectTxn a = t := by
    rw [State.rejectTxn, ← BitVec.ofNat_toNat]
    rfl
  rw [hostStep, hostStep, ha, ← hreject]
  exact ⟨rfl, rfl⟩

/-! ## Reads (R47, R94) -/

/-- An admitted read changes no more than the answer, but for FILL_TIME before the first fill pass. -/
theorem hostStep_read {s : State} {a : Offset} (h4 : a.toNat % 4 = 0) (h : a ≠ 0x40#16 ∨ s.fillTimeHeld = true) :
    hostStep (.read a .word) s = .next (s.respond (.data (s.readValue a))) := by
  have hafter : s.afterRead a = s := by
    refine if_neg fun ⟨hplace, hheld⟩ => ?_
    obtain hne | hheld' := h
    · exact hne (eq_of_placeAt_reg hplace)
    · exact Bool.false_ne_true (hheld.symm.trans hheld')
  rw [hostStep, if_pos (admitted_of_aligned h4), hafter]

/-- A read of FILL_TIME before the first fill pass is a fresh draw (R32). -/
theorem hostStep_read_fillTime_fresh {s : State} (h : s.fillTimeHeld = false) : hostStep (.read 0x40#16 .word) s =
    .next { s with busResp := .data (Config.freeWord s.draws), draws := s.draws + 1 } := by
  have hplace : placeAt s.cfg 0x40#16 = .reg .fillTime := placeAt_regOffset s.cfg .fillTime
  have hafter : s.afterRead 0x40#16 = { s with draws := s.draws + 1 } := if_pos ⟨hplace, h⟩
  have hvalue : s.readValue 0x40#16 = Config.freeWord s.draws := by
    rw [State.readValue, hplace]
    exact if_neg (Bool.eq_false_iff.mp h)
  rw [hostStep, if_pos (admitted_of_aligned rfl), hafter, hvalue]
  rfl

/-! ## Writes (R95) -/

/-- A write that no place takes completes and is ignored (R33, R48). -/
theorem hostStep_write_ignored (s : State) {a : Offset} (w : Word) (h4 : a.toNat % 4 = 0) (hcmd : a ≠ 0x4#16)
    (hstatus : a ≠ 0x8#16) (hfreq : a ≠ 0x14#16) (hvol : a ≠ 0x18#16) (hgain : a ≠ 0x1C#16) :
    hostStep (.write a .word w) s = .next { s with busResp := .done } := by
  obtain ⟨t, ht⟩ := writePlace_total (placeAt s.cfg a) w s
  rw [hostStep, if_pos (admitted_of_aligned h4), ht, answer_next]
  obtain ⟨hp, -⟩ | ⟨hp, -⟩ | ⟨hp, -⟩ | ⟨hp, -⟩ | ⟨hp, -⟩ | ⟨-, -, -, -, -, rfl⟩ := writePlace_cases ht
  · exact absurd (eq_of_placeAt_reg hp) hcmd
  · exact absurd (eq_of_placeAt_reg hp) hstatus
  · exact absurd (eq_of_placeAt_reg hp) hfreq
  · exact absurd (eq_of_placeAt_reg hp) hvol
  · exact absurd (eq_of_placeAt_reg hp) hgain
  · rfl

section
variable (s : State) (w : Word)

theorem hostStep_write_cmd : hostStep (.write 0x4#16 .word w) s = answer .done (execWord w s) :=
  hostStep_write_reg s .cmd _ w rfl

theorem hostStep_write_status : hostStep (.write 0x8#16 .word w) s =
    .next { s with sticky := s.sticky.w1c w, busResp := .done } := hostStep_write_reg s .status _ w rfl

theorem hostStep_write_freqArg : hostStep (.write 0x14#16 .word w) s =
    .next { s with freqArg := warl freqMax w, busResp := .done } := hostStep_write_reg s .freqArg _ w rfl

theorem hostStep_write_volArg : hostStep (.write 0x18#16 .word w) s =
    .next { s with volArg := warl volOne w, busResp := .done } := hostStep_write_reg s .volArg _ w rfl

theorem hostStep_write_masterGain : hostStep (.write 0x1C#16 .word w) s =
    .next { s with masterGain := warl volOne w, busResp := .done } := hostStep_write_reg s .masterGain _ w rfl

end

theorem Sticky.w1c_w1c (k : Sticky) (w : Word) : (k.w1c w).w1c w = k.w1c w := by
  simp [Sticky.w1c]

theorem State.clearSticky_clearSticky (s : State) (w : Word) (r : BusResp) :
    ((s.clearSticky w).respond r).clearSticky w = (s.clearSticky w).respond r := by
  simp [State.clearSticky, State.respond, Sticky.w1c_w1c]

/-- A write that runs no command keeps the build, and done again it changes nothing more. -/
theorem writePlace_again {p : Place} (hp : p ≠ .reg .cmd) {w : Word} {s t : State} (h : writePlace p w s = .next t)
    (r : BusResp) : t.cfg = s.cfg ∧ writePlace p w (t.respond r) = .next (t.respond r) := by
  cases p with
  | reg reg =>
    cases reg
    case cmd => exact absurd rfl hp
    case status =>
      cases h
      exact ⟨rfl, congrArg Host.Outcome.next (s.clearSticky_clearSticky w r)⟩
    all_goals
      cases h
      exact ⟨rfl, rfl⟩
  | window | unmapped =>
    cases h
    exact ⟨rfl, rfl⟩

/-- A write off CMD is idempotent (R47). -/
theorem hostStep_write_idempotent {s t : State} {a : Offset} {w : Word} (h4 : a.toNat % 4 = 0) (hcmd : a ≠ 0x4#16)
    (h : hostStep (.write a .word w) s = .next t) : hostStep (.write a .word w) t = .next t := by
  have hplace : placeAt s.cfg a ≠ .reg .cmd := fun hp => hcmd (eq_of_placeAt_reg hp)
  rw [hostStep, if_pos (admitted_of_aligned h4)] at h
  obtain ⟨u, hu, rfl⟩ := answer_eq_next _ _ _ h
  obtain ⟨hcfg, hagain⟩ := writePlace_again hplace hu .done
  rw [hostStep, if_pos (admitted_of_aligned h4), State.respond_cfg, hcfg, hagain]
  rfl

/-- The state after START from `State.reset`. -/
def startedReset : State := State.respond { State.reset.prime with running := true } .done

/-- A START written twice is refused the second time (R91). -/
theorem hostStep_start_twice :
    hostStep (.write 0x4#16 .word 0x30000000#32) State.reset = .next startedReset ∧
      hostStep (.write 0x4#16 .word 0x30000000#32) startedReset =
        .next ((startedReset.raiseError .startWhileRunning (encode .start)).respond .done) := by
  have hd : decode 0x30000000#32 = .command .start := by decide
  rw [hostStep_write_cmd, hostStep_write_cmd, execWord_of_command hd, execWord_of_command hd]
  exact ⟨by rw [exec_start_of_sink_ready rfl rfl, answer_next]; rfl, by rw [exec_start_of_running rfl, answer_next]⟩

/-- Settles O32: reads by `hostStep_read`, writes by their places, and START is the write that is not idempotent. -/
theorem accessEffectsAndIdempotence : Obligations.AccessEffectsAndIdempotence := by
  refine ⟨fun s a h4 h => ⟨s.readValue a, hostStep_read h4 h, ?readAgain⟩, fun s => hostStep_read_fillTime_fresh,
    fun s w => ⟨hostStep_write_cmd s w, hostStep_write_status s w, hostStep_write_freqArg s w, hostStep_write_volArg s w,
      hostStep_write_masterGain s w⟩, fun s a w => hostStep_write_ignored s w, fun s t a w => hostStep_write_idempotent,
    State.reset, startedReset, _, hostStep_start_twice.1, hostStep_start_twice.2, ?startAgain⟩
  case readAgain => exact hostStep_read (s := s.respond _) h4 h
  case startAgain =>
    rw [startedReset, State.prime_fields]
    exact ErrCode.noConfusion

/-! ## The values of the registers (R33, R94) -/

/-- STATUS by its bits (R27). -/
theorem State.statusWord_eq_append (s : State) : s.statusWord =
    0#25 ++ BitVec.ofBool s.sticky.busErr ++ BitVec.ofBool s.sticky.cmdErr ++ BitVec.ofBool s.sticky.underrun ++
      BitVec.ofBool s.sticky.initErr ++ 0#1 ++ BitVec.ofBool s.sounding ++ BitVec.ofBool s.running := by
  unfold State.statusWord
  generalize s.running = b0, s.sounding = b1, s.sticky.initErr = b3, s.sticky.underrun = b4, s.sticky.cmdErr = b5,
    s.sticky.busErr = b6
  revert b0 b1 b3 b4 b5 b6
  decide

/-- CONFIG by its fields (R30). -/
theorem configWord_eq_append (cfg : Config) : configWord cfg =
    0#8 ++ BitVec.ofNat 16 cfg.bufFrames.toNat ++ BitVec.ofNat 4 cfg.numBuf.toNat ++ 0#3 ++
      BitVec.ofBool (cfg.variant == .fm) := by
  obtain ⟨v, n, f⟩ := cfg
  cases v <;> cases n <;> cases f <;> decide

/-- Settles O33: a read of a register is `hostStep_read_reg`, and STATUS and CONFIG are the fields put together. -/
theorem eachRegisterReadsItsValue : Obligations.EachRegisterReadsItsValue := by
  intro s reads
  have read (r : Reg) (a : Offset) (ha : a = BitVec.ofNat 16 (regOffset r)) (hr : r ≠ .fillTime) :
      reads a (s.readReg r) := hostStep_read_reg s r a ha (.inl hr)
  refine ⟨read .id _ rfl (by decide), read .cmd _ rfl (by decide), ?status, read .errCause _ rfl (by decide),
    read .errInfo _ rfl (by decide), read .freqArg _ rfl (by decide), read .volArg _ rfl (by decide),
    read .masterGain _ rfl (by decide), read .freq _ rfl (by decide), read .volume _ rfl (by decide),
    read .phase _ rfl (by decide), fun hv => ?modPhaseFm, fun hv => ?modPhaseSimple,
    read .samplesRemaining _ rfl (by decide), read .env _ rfl (by decide), ?config, read .fillCount _ rfl (by decide),
    fun hheld => ?fillTime, hostStep_read_fillTime_fresh⟩
  case status => exact s.statusWord_eq_append ▸ read .status _ rfl (by decide)
  case modPhaseFm =>
    have hvalue : s.readReg .modPhase = s.synth.modPhase := by rw [State.readReg, hv]
    exact hvalue ▸ read .modPhase _ rfl (by decide)
  case modPhaseSimple =>
    have hvalue : s.readReg .modPhase = 0 := by rw [State.readReg, hv]
    exact hvalue ▸ read .modPhase _ rfl (by decide)
  case config => exact configWord_eq_append s.cfg ▸ read .config _ rfl (by decide)
  case fillTime =>
    have hvalue : s.readReg .fillTime = s.fillTime := if_pos hheld
    exact hvalue ▸ hostStep_read_reg s .fillTime _ rfl (.inr hheld)

/-- STATUS by its bits, of which there are seven (R27). -/
theorem State.statusWord_bits (s : State) : s.statusWord.getLsbD 0 = s.running ∧ s.statusWord.getLsbD 1 = s.sounding ∧
    s.statusWord.getLsbD 2 = false ∧ s.statusWord.getLsbD 3 = s.sticky.initErr ∧
    s.statusWord.getLsbD 4 = s.sticky.underrun ∧ s.statusWord.getLsbD 5 = s.sticky.cmdErr ∧
    s.statusWord.getLsbD 6 = s.sticky.busErr ∧ s.statusWord.toNat < 2 ^ 7 := by
  unfold State.statusWord
  generalize s.running = b0, s.sounding = b1, s.sticky.initErr = b3, s.sticky.underrun = b4, s.sticky.cmdErr = b5,
    s.sticky.busErr = b6
  revert b0 b1 b3 b4 b5 b6
  decide

/-- Settles O34: the low bits are the fields, and the word is below 2^7. -/
theorem statusReadsItsFields : Obligations.StatusReadsItsFields := by
  intro s
  obtain ⟨h0, h1, h2, h3, h4, h5, h6, hlt⟩ := s.statusWord_bits
  refine ⟨s.statusWord, hostStep_read_reg s .status _ rfl (.inl (by decide)), h0, h1, h2, h3, h4, h5, h6, fun i hi => ?_⟩
  exact Nat.testBit_lt_two_pow (hlt.trans_le (Nat.pow_le_pow_right (by decide) hi))

/-- Settles O35: the write stores the W1C of the sticky bits, which clears by bit. -/
theorem statusWriteClearsTheChosenBits : Obligations.StatusWriteClearsTheChosenBits := by
  intro s w
  refine ⟨s.sticky.w1c w, hostStep_write_status s w, ?_⟩
  simp only [Sticky.w1c, Bool.and_eq_true, Bool.not_eq_true', and_self, iff_self]

/-! ## The argument registers (R22 to R24) -/

theorem warl_eq_ite (limit : Nat) (w : Word) :
    warl limit w = if w.toNat ≤ limit then w else BitVec.ofNat 32 limit := by
  rw [warl]
  split
  case isTrue h => rw [Nat.min_eq_left h, BitVec.ofNat_toNat, BitVec.setWidth_eq]
  case isFalse h => rw [Nat.min_eq_right (Nat.le_of_not_le h)]

/-- What an argument register stores is the smaller of the two numbers. -/
theorem warl_toNat (limit : Nat) (w : Word) : (warl limit w).toNat = min w.toNat limit := by
  rw [warl, BitVec.toNat_ofNat, Nat.mod_eq_of_lt ((Nat.min_le_left _ _).trans_lt w.isLt)]

theorem State.readValue_reg (s : State) (r : Reg) : s.readValue (BitVec.ofNat 16 (regOffset r)) = s.readReg r := by
  rw [State.readValue, placeAt_regOffset]

/-- Settles O37: the register stores the clamped word, and reads as it is stored. -/
theorem argumentWritesReadBackClamped : Obligations.ArgumentWritesReadBackClamped := by
  intro s t w
  refine ⟨fun h => ?freqArg, fun h => ?volArg, fun h => ?masterGain⟩
  case freqArg =>
    rw [hostStep_write_freqArg] at h
    cases h
    exact (State.readValue_reg _ .freqArg).trans (warl_eq_ite freqMax w)
  case volArg =>
    rw [hostStep_write_volArg] at h
    cases h
    exact (State.readValue_reg _ .volArg).trans (warl_eq_ite volOne w)
  case masterGain =>
    rw [hostStep_write_masterGain] at h
    cases h
    exact (State.readValue_reg _ .masterGain).trans (warl_eq_ite volOne w)

/-! ## The bytes of the buffer window (R42) -/

theorem State.ramFrame_eq (s : State) (f : Nat) :
    s.ramFrame f = s.mem.read (bufBase + 2 * f + 1) ++ s.mem.read (bufBase + 2 * f) := by
  rw [State.ramFrame, State.frame, frameAddr_ram, Memory.readFrame]
  rfl

/-- Byte i of four bytes put together. -/
theorem extractLsb'_four_bytes (b : Nat → Byte) {i : Nat} (hi : i < 4) :
    ((b 3 ++ b 2) ++ (b 1 ++ b 0) : BitVec (8 + 8 + (8 + 8))).extractLsb' (8 * i) 8 = b i := by
  interval_cases i
  · exact (BitVec.extractLsb'_append_eq_of_add_le (by decide)).trans BitVec.extractLsb'_append_eq_right
  · exact (BitVec.extractLsb'_append_eq_of_add_le (by decide)).trans BitVec.extractLsb'_append_eq_left
  · exact (BitVec.extractLsb'_append_eq_of_le (by decide)).trans BitVec.extractLsb'_append_eq_right
  · exact (BitVec.extractLsb'_append_eq_of_le (by decide)).trans BitVec.extractLsb'_append_eq_left

/-- Settles O40: a word of the window is two frames, so four bytes in their order. -/
theorem windowWordsAreLittleEndian : Obligations.WindowWordsAreLittleEndian := by
  intro s a h4 hbase hend
  refine ⟨s.windowWord a.toNat, hostStep_read_window s h4 hbase hend, fun i hi => ?_⟩
  obtain ⟨j, hj⟩ : ∃ j, a.toNat = bufBase + 4 * j := ⟨(a.toNat - bufBase) / 4, by unfold bufBase; omega⟩
  have hword : s.windowWord (bufBase + 4 * j) =
      ((s.mem.read (bufBase + 4 * j + 3) ++ s.mem.read (bufBase + 4 * j + 2)) ++
        (s.mem.read (bufBase + 4 * j + 1) ++ s.mem.read (bufBase + 4 * j)) : BitVec (8 + 8 + (8 + 8))) := by
    rw [s.windowWord_wordAddr, s.ramFrame_eq, s.ramFrame_eq]
    congr 3 <;> omega
  rw [hj, hword]
  exact extractLsb'_four_bytes (fun i => s.mem.read (bufBase + 4 * j + i)) hi

/-! ## What a write off CMD reaches (R33, R34) -/

/-- Settles O41: off CMD the effects of a write are a record, a W1C, an argument register, and the answer. -/
theorem hostWritesReachTheBuffersOnlyByCommand : Obligations.HostWritesReachTheBuffersOnlyByCommand := by
  intro s t a n w hcmd h
  obtain ⟨b, m, -, -, rfl⟩ | ⟨b, hread, -, -⟩ | ⟨b, v, u, hwrite, -, hu, rfl⟩ := hostStep_cases h
  · exact ⟨fun _ => rfl, rfl, rfl, rfl, rfl, rfl, rfl⟩
  · cases hread
  · cases hwrite
    obtain ⟨hp, -⟩ | ⟨-, rfl⟩ | ⟨-, rfl⟩ | ⟨-, rfl⟩ | ⟨-, rfl⟩ | ⟨-, -, -, -, -, rfl⟩ := writePlace_cases hu
    · exact absurd (eq_of_placeAt_reg hp) hcmd
    all_goals exact ⟨fun _ => rfl, rfl, rfl, rfl, rfl, rfl, rfl⟩

/-! ## Runs of a few steps (R53, R67) -/

theorem core_run_succ {s t : State} (h : step s = .next t) (n : Nat) :
    Sys2Proof.core.run (n + 1) s = Sys2Proof.core.run n t := by
  simp only [Host.Core.run, show Sys2Proof.core.step s = .next t from h]

/-- A run of n + 1 steps that ends in a next state is a step and a run of n. -/
theorem core_run_succ_cases {s t : State} {n : Nat} (h : Sys2Proof.core.run (n + 1) s = .next t) :
    ∃ u, step s = .next u ∧ Sys2Proof.core.run n u = .next t := by
  cases hs : step s with
  | next u => exact ⟨u, rfl, (core_run_succ hs n).symm.trans h⟩
  | fault r => simp [Host.Core.run, show Sys2Proof.core.step s = .fault r from hs] at h
  | refused r => simp [Host.Core.run, show Sys2Proof.core.step s = .refused r from hs] at h

section
variable {s : State} {w : Word} {rest : List Event}

theorem step_write_freqArg (h : s.schedule = wrReg .freqArg w :: rest) : step s =
    .next { s with schedule := rest, freqArg := warl freqMax w, busResp := .done } := step_wrReg h

theorem step_write_volArg (h : s.schedule = wrReg .volArg w :: rest) : step s =
    .next { s with schedule := rest, volArg := warl volOne w, busResp := .done } := step_wrReg h

theorem step_write_status (h : s.schedule = wrReg .status w :: rest) : step s =
    .next { s with schedule := rest, sticky := s.sticky.w1c w, busResp := .done } := step_wrReg h

theorem step_trigger (h : s.schedule = cmdWrite (encode .trigger) :: rest) : step s =
    .next { s with schedule := rest, synth := triggered s.cfg.variant s.freqArg s.volArg, busResp := .done } := by
  rw [step_cmdWrite h, execWord_of_command (i := .trigger) (by decide)]
  rfl

end

/-- Settles O42: the second step starts the note from what the first one stored. -/
theorem triggerSeesTheFrequencyWrittenBefore : Obligations.TriggerSeesTheFrequencyWrittenBefore := by
  intro s w rest h
  have hrun := (core_run_succ (step_write_freqArg h) 1).trans (core_run_succ (step_trigger rfl) 0)
  exact ⟨_, hrun, warl_toNat freqMax w⟩

/-! ## The pseudo-instructions (R67) -/

/-- A conversion that fits a word is the rounded product. -/
theorem Decimal.scaled_toNat (d : Decimal) {scale : Nat} (h : rha (d.num * scale : Nat) (10 ^ d.places) < 2 ^ 32) :
    ((d.scaled scale).toNat : Int) = rha (d.num * scale : Nat) (10 ^ d.places) := by
  have hnonneg : 0 ≤ rha (d.num * scale : Nat) (10 ^ d.places) := by
    rw [rha_natCast _ _ (by positivity)]
    exact Int.natCast_nonneg _
  rw [Decimal.scaled, BitVec.toNat_ofInt, Int.toNat_of_nonneg (Int.emod_nonneg _ (by norm_num))]
  exact Int.emod_eq_of_lt hnonneg h

/-- A gain of at most 1 is at most VOL_ONE. -/
theorem rha_gain_le {d : Decimal} (h : d.num ≤ 10 ^ d.places) :
    rha (d.num * 2 ^ 15 : Nat) (10 ^ d.places) ≤ 0x8000 := by
  refine (le_abs_self _).trans (abs_rha_le _ _ 0x8000 (by positivity) ?_)
  rw [Nat.abs_cast]
  exact_mod_cast Nat.mul_le_mul_right _ h

theorem Decimal.vol_toNat {d : Decimal} (h : d.num ≤ 10 ^ d.places) :
    (d.vol.toNat : Int) = rha (d.num * 2 ^ 15 : Nat) (10 ^ d.places) :=
  d.scaled_toNat ((rha_gain_le h).trans_lt (by norm_num))

/-- Settles O43: the expansions are written so, the conversions are `rha_natCast`, and the events of TRIG and CLRERR are steps of
register writes and a TRIGGER. -/
theorem pseudoInstructionsExpand : Obligations.PseudoInstructionsExpand := by
  refine ⟨fun _ _ => rfl, fun _ => rfl, fun _ => rfl, rfl, fun d h => d.scaled_toNat h,
    fun d h => ⟨Decimal.vol_toNat h, ?volume⟩, by decide, fun s f v rest h => ?trig, fun s rest h => ?clrErr⟩
  case volume =>
    have hvol := Decimal.vol_toNat h
    have hle := rha_gain_le h
    omega
  case trig =>
    have hrun := (core_run_succ (step_write_freqArg h) 2).trans
      ((core_run_succ (step_write_volArg rfl) 1).trans (core_run_succ (step_trigger rfl) 0))
    exact ⟨_, hrun, rfl, warl_toNat freqMax _, warl_toNat volOne _, triggered_samplesRemaining_toNat _ _ _⟩
  case clrErr =>
    refine ⟨_, step_write_status h, rfl, ?_, rfl⟩
    simp [Sticky.w1c]

end Sys2Proof.Machine
end

section
/-! The turns of the sink and of the fill engine case by case (R98 to R100), that no step stops the block (R114), and what a reset
leaves (R38). -/

namespace Sys2Proof.Machine

/-! ## The agents' turns -/

section
variable {s t : State}

theorem sinkStep_of_stopped (h : s.running = false) : sinkStep s = .next s := if_neg (Bool.eq_false_iff.mp h)

theorem fillStep_of_stopped (h : s.running = false) : fillStep s = .next s := if_neg (Bool.eq_false_iff.mp h)

theorem sinkStep_underrun (hrun : s.running = true) (hpq : s.pq = []) : sinkStep s = .next s.underrunStep := by
  rw [sinkStep, if_pos hrun, hpq]

theorem fillStep_no_request (hrun : s.running = true) (hfq : s.fq = []) : fillStep s = .next s := by
  rw [fillStep, if_pos hrun, hfq]

theorem fillStep_request (hrun : s.running = true) {b : Nat} {rest : List Nat} (hfq : s.fq = b :: rest)
    (hb : b < s.cfg.numBuf.toNat) : fillStep s = .next (State.fillPass { s with fq := rest } b) := by
  simp only [fillStep, hrun, hfq, hb, if_true]

/-- Settles O45: a running sink with nothing to play takes the step UNDERRUN. -/
theorem underrunEmitsAGapAndRecords : Obligations.UnderrunEmitsAGapAndRecords := fun _ hrun hpq =>
  sinkStep_underrun hrun hpq

/-- Settles O46: the fill engine's step with a request is a fill pass, which the laws of `State.fillPass` describe. -/
theorem fillRefillsTheOldestRequest : Obligations.FillRefillsTheOldestRequest := fun s b rest hrun hfq hb =>
  ⟨_, fillStep_request hrun hfq hb, rfl, State.fillPass_frame { s with fq := rest } b,
    State.fillPass_read_outside { s with fq := rest } b⟩

/-- A SHUTDOWN leaves a stopped block. -/
theorem running_of_exec_shutdown (h : exec .shutdown s = .next t) : t.running = false := by
  cases hr : s.running
  case false =>
    rw [exec_shutdown_of_stopped hr] at h
    cases h
    exact hr
  case true =>
    rw [exec_shutdown_of_running hr] at h
    cases h
    rfl

/-- Settles O47: the turn of an agent of a stopped block is skipped, and SHUTDOWN stops the block. -/
theorem stoppedAgentsTakeNoStep : Obligations.StoppedAgentsTakeNoStep :=
  ⟨fun _ h => ⟨sinkStep_of_stopped h, fillStep_of_stopped h⟩, fun _ _ h =>
    ⟨sinkStep_of_stopped (running_of_exec_shutdown h), fillStep_of_stopped (running_of_exec_shutdown h)⟩⟩

/-- Settles O49: the fill pass after it advances the SynthState that the TRIGGER left, which holds nothing of the one before. -/
theorem fillAfterTriggerRendersTheNewNote : Obligations.FillAfterTriggerRendersTheNewNote := by
  intro s t u b rest hrun hfq hb htrigger hfill k hk
  rw [exec_trigger] at htrigger
  cases htrigger
  obtain ⟨v, hpass, -, hframes, -⟩ := fillRefillsTheOldestRequest
    (s.setSynth (triggered s.cfg.variant s.freqArg s.volArg)) b rest hrun hfq hb
  rw [hpass] at hfill
  cases hfill
  exact hframes k hk

/-! ## No step stops the block (R114) -/

/-- The sink's turn completes where PQ names buffers of the build. -/
theorem sinkStep_total (h : s.QueuesLegal) : ∃ t, sinkStep s = .next t := by
  cases hr : s.running
  case false => exact ⟨_, sinkStep_of_stopped hr⟩
  case true =>
    cases hpq : s.pq with
    | nil => exact ⟨_, sinkStep_underrun hr hpq⟩
    | cons b rest => exact ⟨_, sinkStep_consume hr hpq (h.lt (.inl (by simp [hpq])))⟩

/-- The fill engine's turn completes where FQ names buffers of the build. -/
theorem fillStep_total (h : s.QueuesLegal) : ∃ t, fillStep s = .next t := by
  cases hr : s.running
  case false => exact ⟨_, fillStep_of_stopped hr⟩
  case true =>
    cases hfq : s.fq with
    | nil => exact ⟨_, fillStep_no_request hr hfq⟩
    | cons b rest => exact ⟨_, fillStep_request hr hfq (h.lt (.inr (by simp [hfq])))⟩

theorem perform_total (h : s.QueuesLegal) (e : Event) : ∃ t, perform e s = .next t := by
  cases e with
  | host x => exact hostStep_total x s
  | sink => exact sinkStep_total h
  | fill => exact fillStep_total h
  | reset => exact ⟨_, rfl⟩
  | sinkReady level => exact ⟨_, rfl⟩

theorem idleStep_total (h : s.QueuesLegal) : ∃ t, idleStep s = .next t := by
  unfold idleStep
  split
  · split
    · exact sinkStep_total (s := { s with fillWait := if s.fq = [] then s.fillWait else s.fillWait - 1 }) h
    · exact fillStep_total (s := { s with fillWait := Config.freeWait s.draws }) h
  · exact ⟨_, rfl⟩

/-- Settles O30: the one fault is a queue entry that names no buffer, and the queue invariant excludes it. -/
theorem noStepStopsTheBlock : Obligations.NoStepStopsTheBlock := by
  intro s h
  unfold State.StepsOn
  cases hs : s.schedule with
  | nil =>
    rw [step_nil hs]
    exact idleStep_total h.queues
  | cons e rest =>
    rw [step_cons hs]
    exact perform_total (s := { s with schedule := rest }) h.queues e

end

/-! ## Reset (R38, R125) -/

theorem State.resetWith_hasResetValues (cfg : Config) (level : Bool) (es : List Event) (n : Nat) :
    (State.resetWith cfg level es n).HasResetValues where
  synth := rfl
  freqArg := rfl
  volArg := rfl
  masterGain := rfl
  status := rfl
  errCause := rfl
  errInfo := rfl
  errCount := rfl
  fillCount := rfl
  fillTime := rfl
  frames := State.frame_of_mem_nil rfl
  pq := rfl
  fq := rfl
  trace := rfl

/-- Settles O57: reset is `State.resetWith`, and the SynthState it leaves is silent. -/
theorem resetGivesEveryPieceItsValue : Obligations.ResetGivesEveryPieceItsValue := by
  refine ⟨fun s => ⟨s.afterReset, rfl, State.resetWith_hasResetValues _ _ _ _, rfl⟩,
    State.resetWith_hasResetValues _ _ _ _, fun s h => ⟨fun n => ?silent, _, exec_trigger s, rfl, rfl⟩⟩
  case silent =>
    exact advance_silent _ _ n s.synth (by rw [h.synth])

end Sys2Proof.Machine
end

section
/-! A running block never ends and serves every request under weak fairness (R104, R131). A request waits at a place of FQ. No event but
a fill pass moves it there, and each fill pass brings it one place nearer to the head. -/

namespace Sys2Proof.Machine

/-! ## The sink of a running block -/

/-- The sink of a running block appends one event and leaves the block running (R98, R99). -/
theorem sinkStep_emits {s : State} (h : s.Inv) (hrun : s.running = true) :
    ∃ t e, perform .sink s = .next t ∧ t.trace = s.trace ++ [e] ∧ t.running = true := by
  cases hpq : s.pq with
  | nil => exact ⟨_, _, sinkStep_underrun hrun hpq, rfl, hrun⟩
  | cons b rest => exact ⟨_, _, sinkStep_consume hrun hpq (h.queues.lt (.inl (by simp [hpq]))), rfl, hrun⟩

/-! ## Requests in a weakly fair run -/

section
variable {s t : State} {b k : Nat}

/-- A fill pass takes the head of FQ. -/
theorem perform_fill_fq (hrun : s.running = true) {rest : List Nat} (hfq : s.fq = b :: rest)
    (h : perform .fill s = .next t) : t.fq = rest := by
  obtain ⟨hstop, -⟩ | ⟨-, hnil, -⟩ | ⟨b', rest', -, hcons, -, rfl⟩ := fillStep_cases h
  · exact absurd (hrun.symm.trans hstop) (by decide)
  · exact absurd (hfq.symm.trans hnil) (List.cons_ne_nil _ _)
  · rw [State.fillPass_fq]
    exact (List.cons.inj (hcons.symm.trans hfq)).2

/-- A fill pass brings a request behind the head one place nearer to it. -/
theorem perform_fill_waiting (hrun : s.running = true) (hwait : s.fq[k + 1]? = some b) (h : perform .fill s = .next t) :
    t.fq[k]? = some b := by
  obtain ⟨x, rest, hfq⟩ := List.exists_cons_of_ne_nil (l := s.fq) (by rintro hnil; simp [hnil] at hwait)
  rw [perform_fill_fq hrun hfq h]
  rwa [hfq, List.getElem?_cons_succ] at hwait

/-- No other event of a device that goes on running moves a request. -/
theorem perform_waiting {e : Event} (hrun : s.running = true) (hrun' : t.running = true) (he : e ≠ .fill)
    (hwait : s.fq[k]? = some b) (h : perform e s = .next t) : t.fq[k]? = some b := by
  obtain hstop | ⟨-, hsame | ⟨x, happend⟩ | ⟨hfill, -⟩⟩ := (perform_queue h).2 hrun
  · exact absurd (hrun'.symm.trans hstop) (by decide)
  · rwa [hsame]
  · rw [happend, List.getElem?_append_left (List.getElem?_eq_some_iff.mp hwait).1]
    exact hwait
  · exact absurd hfill he

end

section
variable {ev : Nat → Event} {run : Nat → State}

/-- From the n-th state on, buffer b comes to the head of FQ and a fill pass takes it, unless the device is stopped. -/
def ServedFrom (ev : Nat → Event) (run : Nat → State) (n b : Nat) : Prop :=
  ∃ m, n ≤ m ∧ ((run m).running = false ∨ (ev m = .fill ∧ (run m).fq.head? = some b))

theorem ServedFrom.mono {n m b : Nat} (h : ServedFrom ev run m b) (hnm : n ≤ m) : ServedFrom ev run n b := by
  obtain ⟨l, hml, hl⟩ := h
  exact ⟨l, hnm.trans hml, hl⟩

/-- The next fill pass finds a request at the place where it waits, unless the device is stopped before. -/
theorem exists_fill_turn (hrun : IsEventRun ev run) (hfair : WeaklyFair ev run) {n b k : Nat}
    (hwait : (run n).fq[k]? = some b) :
    (∃ m, n ≤ m ∧ (run m).running = false) ∨
      ∃ m, n ≤ m ∧ (run m).running = true ∧ ev m = .fill ∧ (run m).fq[k]? = some b := by
  obtain ⟨m, hnm, hturn⟩ := hfair .fill n
  obtain ⟨d, rfl⟩ := Nat.exists_eq_add_of_le hnm
  clear hnm
  induction d generalizing n with
  | zero =>
    cases hr : (run n).running
    case false => exact .inl ⟨n, le_rfl, hr⟩
    case true =>
      have hfq : (run n).fq ≠ [] := by
        intro hnil
        simp [hnil] at hwait
      exact .inr ⟨n, le_rfl, hr, hturn.resolve_left (not_not_intro ⟨hr, hfq⟩), hwait⟩
  | succ d ih =>
    cases hr : (run n).running
    case false => exact .inl ⟨n, le_rfl, hr⟩
    by_cases hfill : ev n = .fill
    · exact .inr ⟨n, le_rfl, hr, hfill, hwait⟩
    cases hr' : (run (n + 1)).running
    case false => exact .inl ⟨n + 1, by omega, hr'⟩
    case true =>
      have hnext := perform_waiting hr hr' hfill hwait (hrun n)
      rw [show n + (d + 1) = n + 1 + d by omega] at hturn
      obtain ⟨m, hm, h⟩ | ⟨m, hm, h⟩ := ih hnext hturn
      · exact .inl ⟨m, by omega, h⟩
      · exact .inr ⟨m, by omega, h⟩

/-- Every request is served, by induction on its place in FQ. -/
theorem servedFrom_of_waiting (hrun : IsEventRun ev run) (hfair : WeaklyFair ev run) {n b k : Nat}
    (hwait : (run n).fq[k]? = some b) : ServedFrom ev run n b := by
  induction k generalizing n with
  | zero =>
    obtain ⟨m, hnm, hstop⟩ | ⟨m, hnm, -, hfill, hhead⟩ := exists_fill_turn hrun hfair hwait
    · exact ⟨m, hnm, .inl hstop⟩
    · exact ⟨m, hnm, .inr ⟨hfill, List.head?_eq_getElem?.trans hhead⟩⟩
  | succ k ih =>
    obtain ⟨m, hnm, hstop⟩ | ⟨m, hnm, hr, hfill, hplace⟩ := exists_fill_turn hrun hfair hwait
    · exact ⟨m, hnm, .inl hstop⟩
    · have hstep := hrun m
      rw [hfill] at hstep
      exact (ih (perform_fill_waiting hr hplace hstep)).mono (by omega)

theorem servedFrom_of_mem (hrun : IsEventRun ev run) (hfair : WeaklyFair ev run) {n b : Nat} (hb : b ∈ (run n).fq) :
    ServedFrom ev run n b := by
  obtain ⟨k, hk⟩ := List.mem_iff_getElem?.mp hb
  exact servedFrom_of_waiting hrun hfair hk

/-- The sink steps again and again, unless the device is stopped. -/
theorem sink_steps_again (hfair : WeaklyFair ev run) (n : Nat) :
    ∃ m, n ≤ m ∧ ((run m).running = false ∨ ev m = .sink) := by
  obtain ⟨m, hnm, hm⟩ := hfair .sink n
  exact ⟨m, hnm, hm.imp_left Bool.eq_false_iff.mpr⟩

end

/-! ## Runs of the machine's own step -/

section
variable {run : Nat → State}

/-- A run of the machine takes its events one by one (R53). -/
theorem schedule_add (hrun : IsStepRun run) (n k : Nat) : (run (n + k)).schedule = (run n).schedule.drop k := by
  induction k with
  | zero => rfl
  | succ k ih => rw [← Nat.add_assoc, step_schedule (hrun (n + k)), ih, List.tail_drop]

/-- From some state on no event is left. -/
theorem exists_schedule_empty (hrun : IsStepRun run) (n : Nat) :
    ∃ m, n ≤ m ∧ ∀ j, m ≤ j → (run j).schedule = [] := by
  refine ⟨n + (run n).schedule.length, by omega, fun j hj => ?_⟩
  obtain ⟨k, rfl⟩ := Nat.exists_eq_add_of_le hj
  rw [Nat.add_assoc, schedule_add hrun, List.drop_eq_nil_iff]
  omega

theorem nextAgent_of_no_request {s : State} (h : s.fq = []) : s.nextAgent = .sink := if_neg fun ⟨hne, _⟩ => hne h

theorem nextAgent_of_waiting {s : State} (h : s.fillWait ≠ 0) : s.nextAgent = .sink := if_neg fun ⟨_, hzero⟩ => h hzero

theorem nextAgent_of_request {s : State} (hfq : s.fq ≠ []) (hwait : s.fillWait = 0) : s.nextAgent = .fill :=
  if_pos ⟨hfq, hwait⟩

/-- The sink's turn does not touch the wait of the idle rule. -/
theorem sinkStep_fillWait {s t : State} (h : sinkStep s = .next t) : t.fillWait = s.fillWait := by
  obtain ⟨-, rfl⟩ | ⟨-, -, rfl⟩ | ⟨b, rest, -, -, -, rfl⟩ := sinkStep_cases h <;> rfl

/-- With no event left, the fill engine takes request after request until the sink's turn comes. -/
theorem sink_fair_of_empty (hrun : IsStepRun run) {m : Nat} (hempty : ∀ j, m ≤ j → (run j).schedule = []) :
    ∃ l, m ≤ l ∧ (¬ (run l).Enabled .sink ∨ (run l).Takes .sink) := by
  induction hlen : (run m).fq generalizing m with
  | nil =>
    by_cases hr : (run m).running = true
    · exact ⟨m, le_rfl, .inr (.inr ⟨hempty m le_rfl, hr, nextAgent_of_no_request hlen⟩)⟩
    · exact ⟨m, le_rfl, .inl hr⟩
  | cons b rest ih =>
    by_cases hr : (run m).running = true
    case neg => exact ⟨m, le_rfl, .inl hr⟩
    have hfq : (run m).fq ≠ [] := by simp [hlen]
    by_cases hwait : (run m).fillWait = 0
    · have hstep := hrun m
      rw [step_idle_fill (hempty m le_rfl) hr hfq hwait] at hstep
      have hrest : (run (m + 1)).fq = rest :=
        perform_fill_fq (s := { run m with fillWait := Config.freeWait (run m).draws }) hr hlen hstep
      obtain ⟨l, hl, h⟩ := ih (fun j hj => hempty j (by omega)) hrest
      exact ⟨l, by omega, h⟩
    · exact ⟨m, le_rfl, .inr (.inr ⟨hempty m le_rfl, hr, nextAgent_of_waiting hwait⟩)⟩

/-- With no event left, the wait of the idle rule falls to 0 unless the device is stopped or has no request. -/
theorem fill_fair_of_empty (hrun : IsStepRun run) {m : Nat} (hempty : ∀ j, m ≤ j → (run j).schedule = []) :
    ∃ l, m ≤ l ∧ (¬ (run l).Enabled .fill ∨ (run l).Takes .fill) := by
  induction hw : (run m).fillWait generalizing m with
  | zero =>
    by_cases hen : (run m).Enabled .fill
    · obtain ⟨hr, hfq⟩ := hen
      exact ⟨m, le_rfl, .inr (.inr ⟨hempty m le_rfl, hr, nextAgent_of_request hfq hw⟩)⟩
    · exact ⟨m, le_rfl, .inl hen⟩
  | succ w ih =>
    by_cases hen : (run m).Enabled .fill
    case neg => exact ⟨m, le_rfl, .inl hen⟩
    obtain ⟨hr, hfq⟩ := hen
    have hstep := hrun m
    rw [step_idle_sink (hempty m le_rfl) hr (.inr (by omega)), if_neg hfq] at hstep
    have hfall : (run (m + 1)).fillWait = w := by rw [sinkStep_fillWait hstep, hw, Nat.add_sub_cancel]
    obtain ⟨l, hl, h⟩ := ih (fun j hj => hempty j (by omega)) hfall
    exact ⟨l, by omega, h⟩

theorem stepRun_fair (hrun : IsStepRun run) (a : Agent) (n : Nat) :
    ∃ m, n ≤ m ∧ (¬ (run m).Enabled a ∨ (run m).Takes a) := by
  obtain ⟨m, hnm, hempty⟩ := exists_schedule_empty hrun n
  cases a with
  | sink =>
    obtain ⟨l, hl, h⟩ := sink_fair_of_empty hrun hempty
    exact ⟨l, hnm.trans hl, h⟩
  | fill =>
    obtain ⟨l, hl, h⟩ := fill_fair_of_empty hrun hempty
    exact ⟨l, hnm.trans hl, h⟩

end

/-- Settles O48: the places of FQ give the service of requests, and the idle rule's wait and FQ, which both come to an end, the
fairness of the machine's own runs. -/
theorem runningBlockNeverEndsAndServesRequests : Obligations.RunningBlockNeverEndsAndServesRequests :=
  ⟨fun _ h hrun => sinkStep_emits h hrun, fun _ _ hrun hfair =>
    ⟨fun _ _ hb => servedFrom_of_mem hrun hfair hb, sink_steps_again hfair⟩, fun _ hrun =>
    ⟨schedule_add hrun, stepRun_fair hrun⟩⟩

end Sys2Proof.Machine
end

section
/-! Undisturbed playback (R103). The passes are numbered: pass j renders frames `j × BUF_FRAMES` on of the note into buffer
`j mod NUM_BUF`. While c passes have been played and m rendered, PQ holds the buffers of passes c to m − 1 with their frames, and FQ the
buffers of the passes to come. -/

namespace Sys2Proof.Machine

/-! ## The frames of a note by their numbers -/

section
variable (v : Variant) (g : Word) (y : Synth)

/-- Frame i of the note that sounds in y: the sample of step i, as it is stored (R82, R91). -/
def noteFrame (i : Nat) : Sample := u16 (sampleStep v g (advance v g i y).2).1

/-- The frames of ADVANCE(N) are the note's first N. -/
theorem advance_map_u16 (n : Nat) : (advance v g n y).1.map u16 = (List.range n).map (noteFrame v g y) := by
  apply List.ext_getElem?
  intro i
  rw [List.getElem?_map, List.getElem?_map]
  obtain hi | hi := lt_or_ge i n
  · rw [advance_getElem? v g n i y hi, List.getElem?_range hi]
    rfl
  · rw [List.getElem?_eq_none (by rwa [advance_length]), List.getElem?_eq_none (by rwa [List.length_range])]
    rfl

theorem u16_advance_getD {n i : Nat} (hi : i < n) : u16 ((advance v g n y).1.getD i 0) = noteFrame v g y i := by
  rw [List.getD_eq_getElem?_getD, advance_getElem? v g n i y hi]
  rfl

/-- Frame i after a steps is frame a + i. -/
theorem noteFrame_advance (a i : Nat) : noteFrame v g (advance v g a y).2 i = noteFrame v g y (a + i) := by
  rw [noteFrame, noteFrame, advance_add]

/-- The frames of pass j. -/
def passFrames (bf j : Nat) : List Sample := (List.range bf).map fun k => noteFrame v g y (j * bf + k)

/-- The passes together are the note in generation order. -/
theorem flatMap_passFrames (bf c : Nat) :
    (List.range c).flatMap (passFrames v g y bf) = (List.range (c * bf)).map (noteFrame v g y) := by
  induction c with
  | zero => simp
  | succ c ih =>
    rw [List.range_succ, List.flatMap_append, ih, List.flatMap_singleton, Nat.succ_mul, List.range_add, List.map_append,
      List.map_map]
    rfl

end

/-! ## The state of the playback -/

/-- The event that plays pass j of the note that s holds. -/
def passEvent (s : State) (j : Nat) : OutEvent :=
  .play (j % s.cfg.numBuf.toNat) (passFrames s.cfg.variant s.masterGain s.synth s.cfg.bufFrames.toNat j)

/-- The buffers of n passes from pass j on. -/
def passBuffers (s : State) (j n : Nat) : List Nat := (List.range' j n).map (· % s.cfg.numBuf.toNat)

/-- After a START from s that left the trace `old`: u has played c passes and rendered m. -/
structure Playing (s : State) (old : List OutEvent) (c m : Nat) (u : State) : Prop where
  cfg : u.cfg = s.cfg
  masterGain : u.masterGain = s.masterGain
  running : u.running = true
  played_le : c ≤ m
  rendered_le : m ≤ c + s.cfg.numBuf.toNat
  synth : u.synth = (advance s.cfg.variant s.masterGain (m * s.cfg.bufFrames.toNat) s.synth).2
  pq : u.pq = passBuffers s c (m - c)
  fq : u.fq = passBuffers s m (c + s.cfg.numBuf.toNat - m)
  frames : ∀ j k, c ≤ j → j < m → k < s.cfg.bufFrames.toNat → u.frame (j % s.cfg.numBuf.toNat) k =
    noteFrame s.cfg.variant s.masterGain s.synth (j * s.cfg.bufFrames.toNat + k)
  trace : u.trace = old ++ (List.range c).map (passEvent s)

section
variable {s u : State}

theorem passBuffers_succ (j n : Nat) :
    passBuffers s j (n + 1) = (j % s.cfg.numBuf.toNat) :: passBuffers s (j + 1) n := rfl

theorem passBuffers_concat (j n : Nat) :
    passBuffers s j (n + 1) = passBuffers s j n ++ [(j + n) % s.cfg.numBuf.toNat] := by
  rw [passBuffers, List.range'_1_concat, List.map_append]
  rfl

/-- The passes that a queue of buffers begins with. -/
theorem passBuffers_eq_cons {j n b : Nat} {rest : List Nat} (h : passBuffers s j n = b :: rest) :
    0 < n ∧ b = j % s.cfg.numBuf.toNat ∧ rest = passBuffers s (j + 1) (n - 1) := by
  cases n with
  | zero => cases h
  | succ n =>
    rw [passBuffers_succ] at h
    obtain ⟨hb, hrest⟩ := List.cons.inj h
    exact ⟨Nat.succ_pos n, hb.symm, hrest.symm⟩

/-- Passes less than NUM_BUF apart have different buffers. -/
theorem pass_buffer_ne {n j m : Nat} (hjm : j < m) (hmj : m < j + n) : j % n ≠ m % n := by
  intro h
  have hdvd := Nat.sub_mod_eq_zero_of_mod_eq h.symm
  rw [Nat.mod_eq_of_lt (by omega)] at hdvd
  omega

/-- The first NUM_BUF passes go into the buffers in index order. -/
theorem passBuffers_first : passBuffers s 0 s.cfg.numBuf.toNat = List.range s.cfg.numBuf.toNat := by
  rw [passBuffers, ← List.range_eq_range']
  exact (List.map_congr_left fun j hj => Nat.mod_eq_of_lt (List.mem_range.mp hj)).trans (List.map_id _)

/-- START renders the first NUM_BUF passes (R91). -/
theorem playing_start (hs : s.Inv) (hstop : s.running = false) (es : List Event) :
    Playing s s.trace 0 s.cfg.numBuf.toNat { s.prime with running := true, schedule := es } := by
  obtain ⟨hpq, hfq⟩ := hs.queues.2 hstop
  constructor
  case running => rfl
  case played_le => exact Nat.zero_le _
  case rendered_le => exact Nat.le_add_left _ _
  case synth => exact s.prime_synth
  case frames =>
    intro j k _ hj hk
    have hlt : j * s.cfg.bufFrames.toNat + k < s.cfg.numBuf.toNat * s.cfg.bufFrames.toNat := by
      have hmul := Nat.mul_le_mul_right s.cfg.bufFrames.toNat (Nat.succ_le_of_lt hj)
      rw [Nat.succ_mul] at hmul
      omega
    rw [Nat.mod_eq_of_lt hj, ← u16_advance_getD _ _ _ hlt]
    exact primed_frame s s.cfg.numBuf.toNat j k hj hk
  case pq =>
    rw [State.prime_fields, Nat.sub_zero, passBuffers_first, hpq]
    rfl
  case fq =>
    rw [State.prime_fields, Nat.zero_add, Nat.sub_self, hfq]
    rfl
  case trace =>
    rw [State.prime_fields]
    exact (List.append_nil _).symm
  all_goals rw [State.prime_fields]

variable {old : List OutEvent} {c m : Nat}

/-- The buffer of a rendered pass holds the pass's frames. -/
theorem Playing.bufferFrames (h : Playing s old c m u) {j : Nat} (hcj : c ≤ j) (hjm : j < m) :
    u.bufferFrames (j % s.cfg.numBuf.toNat) = passFrames s.cfg.variant s.masterGain s.synth s.cfg.bufFrames.toNat j := by
  rw [State.bufferFrames, h.cfg, passFrames]
  exact List.map_congr_left fun k hk => h.frames j k hcj hjm (List.mem_range.mp hk)

/-- CONSUME plays pass c. -/
theorem Playing.consume (h : Playing s old c m u) {b : Nat} {rest : List Nat} (hpq : u.pq = b :: rest) :
    Playing s old (c + 1) m (u.consumeStep b rest) := by
  obtain ⟨hpos, rfl, rfl⟩ := passBuffers_eq_cons (h.pq.symm.trans hpq)
  have hle := h.rendered_le
  have hlt : c < m := by omega
  refine { h with
    played_le := hlt
    rendered_le := by omega
    pq := ?pq
    fq := ?fq
    frames := fun j k hcj => h.frames j k (Nat.le_of_succ_le hcj)
    trace := ?trace }
  case pq => rw [State.consumeStep_pq, Nat.sub_sub]
  case fq =>
    have hn : c + 1 + s.cfg.numBuf.toNat - m = c + s.cfg.numBuf.toNat - m + 1 := by omega
    have hlast : m + (c + s.cfg.numBuf.toNat - m) = c + s.cfg.numBuf.toNat := by omega
    rw [State.consumeStep_fq, h.fq, hn, passBuffers_concat, hlast, Nat.add_mod_right]
  case trace =>
    rw [State.consumeStep_trace, h.trace, h.bufferFrames le_rfl hlt, List.range_succ, List.map_append, List.append_assoc]
    rfl

/-- A fill pass renders pass m. -/
theorem Playing.fill (h : Playing s old c m u) {b : Nat} {rest : List Nat} (hfq : u.fq = b :: rest) :
    Playing s old c (m + 1) (State.fillPass { u with fq := rest } b) := by
  obtain ⟨hpos, rfl, rfl⟩ := passBuffers_eq_cons (h.fq.symm.trans hfq)
  have hle := h.played_le
  refine { h with
    played_le := by omega
    rendered_le := by omega
    synth := ?synth
    pq := ?pq
    fq := ?fq
    frames := fun j k hcj hjm hk => ?frames }
  case synth =>
    rw [State.fillPass_synth, h.cfg, h.masterGain, h.synth, Nat.succ_mul, advance_add]
  case pq =>
    have hn : m + 1 - c = m - c + 1 := by omega
    have hlast : c + (m - c) = m := by omega
    rw [State.fillPass_pq, h.pq, hn, passBuffers_concat, hlast]
  case fq => rw [State.fillPass_fq, Nat.sub_sub]
  case frames =>
    have hku : k < u.cfg.bufFrames.toNat := h.cfg.symm ▸ hk
    obtain hlt | rfl := Nat.lt_or_eq_of_le (Nat.le_of_lt_succ hjm)
    · have hne := pass_buffer_ne (n := s.cfg.numBuf.toNat) hlt (by omega)
      exact (State.fillPass_frame_other { u with fq := _ } _ _ k hku hne).trans (h.frames j k hcj hlt hk)
    · refine (State.fillPass_frame { u with fq := _ } _ k hku).trans ?_
      dsimp only
      rw [h.cfg, h.masterGain, h.synth, u16_advance_getD _ _ _ hk, noteFrame_advance]

/-! ## Undisturbed runs -/

variable {t : State}

/-- An undisturbing step goes on with the playback, or emits a gap. -/
theorem Playing.effect (h : Playing s old c m u) {p : State} (hp : ∀ e, p.NextEvent e → e.Undisturbing)
    (he : Effect p u t) : (∃ c' m', Playing s old c' m' t) ∨ t.trace = u.trace ++ [.gap] := by
  have stopped : u.running ≠ false := by simp [h.running]
  cases he
  case quiet | raised | statusWrite | freqArgWrite | volArgWrite => exact .inl ⟨c, m, { h with }⟩
  case masterGainWrite w hw =>
    obtain ⟨e, hnext, hwrites⟩ := hw
    exact absurd hwrites ((hp e hnext).2.1 w)
  case trigger hcmd =>
    obtain ⟨e, hnext, hc⟩ := hcmd
    exact absurd hc (hp e hnext).2.2.1
  case setVolume hcmd =>
    obtain ⟨e, hnext, hc⟩ := hcmd
    exact absurd hc (hp e hnext).2.2.2.1
  case shutdown hcmd _ =>
    obtain ⟨e, hnext, hc⟩ := hcmd
    exact absurd hc (hp e hnext).2.2.2.2
  case reset hr => exact absurd rfl (hp _ hr).1
  case start hstop _ => exact absurd hstop stopped
  case generate hstop _ _ => exact absurd hstop stopped
  case underrun => exact .inr rfl
  case consume hpq _ => exact .inl ⟨c + 1, m, h.consume hpq⟩
  case fill hfq _ => exact .inl ⟨c, m + 1, h.fill hfq⟩

/-- The playback has gone on so far, or an underrun has occurred. -/
def PlaysOrGap (s : State) (old : List OutEvent) (u : State) : Prop :=
  (∃ c m, Playing s old c m u) ∨ ∃ new, u.trace = old ++ new ∧ .gap ∈ new

theorem PlaysOrGap.step (h : PlaysOrGap s old u) (hu : ∀ e ∈ u.schedule, e.Undisturbing) (hstep : step u = .next t) :
    PlaysOrGap s old t := by
  have hnext : ∀ e, u.NextEvent e → e.Undisturbing := fun e he => hu e (List.mem_of_mem_head? he)
  obtain ⟨c, m, hplay⟩ | ⟨new, htrace, hgap⟩ := h
  case inl =>
    obtain ⟨es, n, he⟩ := step_effect hstep
    have hmoved : Playing s old c m { u with schedule := es, fillWait := n } := { hplay with }
    obtain hgoes | hgap := hmoved.effect hnext he
    · exact .inl hgoes
    · refine .inr ⟨(List.range c).map (passEvent s) ++ [.gap], ?_, by simp⟩
      rw [hgap, hmoved.trace, List.append_assoc]
  case inr =>
    have hreset : ¬ u.NextEvent .reset := fun hr => (hnext _ hr).1 rfl
    obtain hsame | ⟨e, happend, -⟩ := traceGrowsByAtMostOneEvent u t hstep hreset
    · exact .inr ⟨new, hsame.trans htrace, hgap⟩
    · exact .inr ⟨new ++ [e], by rw [happend, htrace, List.append_assoc], List.mem_append_left _ hgap⟩

theorem PlaysOrGap.run (h : PlaysOrGap s old u) (hu : ∀ e ∈ u.schedule, e.Undisturbing) {n : Nat}
    (hrun : Sys2Proof.core.run n u = .next t) : PlaysOrGap s old t := by
  induction n generalizing u with
  | zero =>
    cases hrun
    exact h
  | succ n ih =>
    obtain ⟨x, hstep, hrest⟩ := core_run_succ_cases hrun
    refine ih (h.step hu hstep) (fun e he => hu e ?_) hrest
    rw [step_schedule hstep] at he
    exact List.mem_of_mem_tail he

end

theorem playedFrames_passEvents (s : State) (js : List Nat) : playedFrames (js.map (passEvent s)) =
    js.flatMap (passFrames s.cfg.variant s.masterGain s.synth s.cfg.bufFrames.toNat) := by
  induction js with
  | nil => rfl
  | cons j js ih =>
    rw [List.map_cons, List.flatMap_cons, ← ih]
    rfl

/-- Settles O60: a run from the primed block without a gap has played passes 0 to c − 1, whose frames are the first of the note. -/
theorem undisturbedPlaybackIsTheNoteInOrder : Obligations.UndisturbedPlaybackIsTheNoteInOrder := by
  intro s s₁ t es new hs hstop hsink hstart hes hrun htrace hgap
  rw [exec_start_of_sink_ready hstop hsink] at hstart
  cases hstart
  have hprimed : s.prime.trace = s.trace := by rw [State.prime_fields]
  obtain ⟨c, m, hplay⟩ | ⟨new', htrace', hgap'⟩ := (PlaysOrGap.run (.inl ⟨0, _, playing_start hs hstop es⟩) hes hrun :
    PlaysOrGap s s.trace t)
  case inr =>
    rw [hprimed] at htrace
    rw [List.append_cancel_left (htrace.symm.trans htrace')] at hgap
    exact absurd hgap' hgap
  rw [hprimed] at htrace
  have hnew : new = (List.range c).map (passEvent s) := List.append_cancel_left (htrace.symm.trans hplay.trace)
  subst hnew
  refine ⟨⟨c * s.cfg.bufFrames.toNat, ?frames⟩, fun i b frames hi => ?order⟩
  case frames =>
    rw [playedFrames_passEvents, flatMap_passFrames, advance_map_u16]
  case order =>
    rw [List.getElem?_map, Option.map_eq_some_iff] at hi
    obtain ⟨j, hj, hevent⟩ := hi
    obtain ⟨_, hij⟩ := List.getElem?_eq_some_iff.mp hj
    rw [List.getElem_range] at hij
    subst hij
    exact (OutEvent.play.inj hevent).1.symm

end Sys2Proof.Machine
end
